-- ==== Sys2Proof/Word.lean ====
section
/-! DEFINITION. The word types of the accessor (00_scope.md R8, R11): bytes, ports, registers, the command word and the
result word. All are unsigned; arithmetic on each wraps modulo two to its width. -/

namespace Sys2Proof

/-- One byte of host memory, of a FIFO or of a text (`u8`). -/
abbrev Byte := BitVec 8

/-- A port (`u16`). -/
abbrev Half := BitVec 16

/-- The value of a register of the block, an operand or a size (`u32`). -/
abbrev Word := BitVec 32

/-- The 80-bit command word `CMD[79:0]` (30_encoding.md R91). -/
abbrev Command := BitVec 80

/-- The 40-bit result word `RES[39:0]` (30_encoding.md R96). -/
abbrev ResultWord := BitVec 40

end Sys2Proof
end

