-- ==== Sys2Proof/Syntax.lean ====
section
/-! DEFINITION. The operations of the accessor as syntax (00_scope.md R5, 30_encoding.md R92, R94), the names of the twelve
operations, and the names of the fourteen registers of the block (10_state.md R30). -/

namespace Sys2Proof

/-- The fourteen named registers of the peripheral register block (10_state.md R30, R31). The two reserved gaps are no
registers: nothing names them after the register id has been resolved. -/
inductive Reg where
  | rxip | txip | rxport | txport | ctrl | status | rxStatus | txStatus
  | rxsize | txsize | rxfifoData | txfifoData | rxfifoSize | txfifoSize
  deriving DecidableEq, Repr

/-- The names of the twelve operations: what the latch `cur_op` holds (10_state.md R21). -/
inductive Op where
  | regRead | regWrite | setBits | clearBits | readBits | writeBits
  | parseIpv4 | hton16 | hton32
  | init | recvFrame | sendFrame
  deriving DecidableEq, Repr

/-- The operations with their operands, one constructor per row of the operation map (30_encoding.md R92, R94).
A register operand is the 8-bit `reg` field as it stands: any value decodes, and ids that name no register are refused
when the operation runs (40_register_access.md R125). -/
inductive Instr where
  | regRead (reg : BitVec 8)
  | regWrite (reg : BitVec 8) (value : Word)
  | setBits (reg : BitVec 8) (mask : Word)
  | clearBits (reg : BitVec 8) (mask : Word)
  | readBits (reg : BitVec 8) (mask : Word)
  | writeBits (reg : BitVec 8) (clearMask setMask : Word)
  | parseIpv4 (text len : Word)
  | hton16 (v : Half)
  | hton32 (v : Word)
  | init
  | recvFrame (buffer size : Word)
  | sendFrame (buffer size : Word)
  deriving DecidableEq, Repr

end Sys2Proof
end

