-- ==== Sys2Proof/Decode.lean ====
section
/-! DEFINITION. The operation word: the map of operations (30_encoding.md R94), the decoder, total on every 80-bit word and
refusing by name (R95), and the encoder written from the same map (R91, R92). The word arrives whole on the command
interface; it has no byte order, and its bit `k` is bit `k` of the opcode table. -/

namespace Sys2Proof

/-- One row of the operation map (R94): the operation, its `op` byte, and the part of the row's mask that lies in the
`reg`, `a` and `b` fields. A masked bit of those fields must be zero. -/
structure MapRow where
  op : Op
  code : Byte
  regMask : Byte
  aMask : Word
  bMask : Word
  deriving DecidableEq, Repr

/-- The operation map, in the order of R94. -/
def opMap : List MapRow :=
  [ ⟨.regRead,   0x10, 0x00, 0xFFFFFFFF, 0xFFFFFFFF⟩,
    ⟨.regWrite,  0x11, 0x00, 0x00000000, 0xFFFFFFFF⟩,
    ⟨.setBits,   0x12, 0x00, 0x00000000, 0xFFFFFFFF⟩,
    ⟨.clearBits, 0x13, 0x00, 0x00000000, 0xFFFFFFFF⟩,
    ⟨.readBits,  0x14, 0x00, 0x00000000, 0xFFFFFFFF⟩,
    ⟨.writeBits, 0x15, 0x00, 0x00000000, 0x00000000⟩ ] ++
  [ ⟨.parseIpv4, 0x20, 0xFF, 0x00000000, 0x00000000⟩,
    ⟨.hton16,    0x21, 0xFF, 0xFFFF0000, 0xFFFFFFFF⟩,
    ⟨.hton32,    0x22, 0xFF, 0x00000000, 0xFFFFFFFF⟩,
    ⟨.init,      0x30, 0xFF, 0xFFFFFFFF, 0xFFFFFFFF⟩,
    ⟨.recvFrame, 0x31, 0xFF, 0x00000000, 0x00000000⟩,
    ⟨.sendFrame, 0x32, 0xFF, 0x00000000, 0x00000000⟩ ]

/-- The `op` field, bits 79:72 (R91). -/
def Command.opField (w : Command) : Byte := w.extractLsb' 72 8

/-- The `reg` field, bits 71:64 (R91). -/
def Command.regField (w : Command) : Byte := w.extractLsb' 64 8

/-- The operand `a`, bits 63:32 (R91). -/
def Command.aField (w : Command) : Word := w.extractLsb' 32 32

/-- The operand `b`, bits 31:0 (R91). -/
def Command.bField (w : Command) : Word := w.extractLsb' 0 32

/-- Put the four fields together, most significant first (R91). -/
def commandWord (op reg : Byte) (a b : Word) : Command :=
  ((op ++ reg) ++ a) ++ b

/-- The row's `match` word of R94. -/
def MapRow.matchWord (r : MapRow) : Command := commandWord r.code 0 0 0

/-- The row's `mask` word of R94. -/
def MapRow.maskWord (r : MapRow) : Command := commandWord 0xFF r.regMask r.aMask r.bMask

/-- The word selects the row: `w & mask == match` (R94). -/
def MapRow.selects (r : MapRow) (w : Command) : Bool := w &&& r.maskWord == r.matchWord

/-- The operation named by an operation name and the four operand fields, each operand used exactly as its bits stand
(R92). `HTON16` takes its operand from `a[15:0]`. -/
def Instr.ofFields (op : Op) (reg : Byte) (a b : Word) : Instr :=
  match op with
  | .regRead => .regRead reg
  | .regWrite => .regWrite reg a
  | .setBits => .setBits reg a
  | .clearBits => .clearBits reg a
  | .readBits => .readBits reg a
  | .writeBits => .writeBits reg a b
  | .parseIpv4 => .parseIpv4 a b
  | .hton16 => .hton16 (a.setWidth 16)
  | .hton32 => .hton32 a
  | .init => .init
  | .recvFrame => .recvFrame a b
  | .sendFrame => .sendFrame a b

/-- Why a word is illegal (R95). -/
inductive IllegalReason where
  /-- The `op` byte is not listed. -/
  | unknownOp
  /-- A field that must be zero is not zero. -/
  | mustBeZero
  deriving DecidableEq, Repr

/-- What the decoder answers. -/
inductive Decoded where
  | op (i : Instr)
  | illegal (why : IllegalReason)
  deriving DecidableEq, Repr

/-- The row of an `op` byte. -/
def rowOfCode (code : Byte) : Option MapRow := opMap.find? (fun r => r.code == code)

/-- Decode one command word (R94, R95): total, and refusing by name. -/
def decode (w : Command) : Decoded :=
  match rowOfCode w.opField with
  | none => .illegal .unknownOp
  | some r =>
    if w.regField &&& r.regMask = 0 ∧ w.aField &&& r.aMask = 0 ∧ w.bField &&& r.bMask = 0 then
      .op (Instr.ofFields r.op w.regField w.aField w.bField)
    else .illegal .mustBeZero

/-- The name of an operation's row. -/
def Instr.op : Instr → Op
  | .regRead _ => .regRead
  | .regWrite _ _ => .regWrite
  | .setBits _ _ => .setBits
  | .clearBits _ _ => .clearBits
  | .readBits _ _ => .readBits
  | .writeBits _ _ _ => .writeBits
  | .parseIpv4 _ _ => .parseIpv4
  | .hton16 _ => .hton16
  | .hton32 _ => .hton32
  | .init => .init
  | .recvFrame _ _ => .recvFrame
  | .sendFrame _ _ => .sendFrame

/-- The `op` byte of an operation (R94). -/
def Op.code : Op → Byte
  | .regRead => 0x10
  | .regWrite => 0x11
  | .setBits => 0x12
  | .clearBits => 0x13
  | .readBits => 0x14
  | .writeBits => 0x15
  | .parseIpv4 => 0x20
  | .hton16 => 0x21
  | .hton32 => 0x22
  | .init => 0x30
  | .recvFrame => 0x31
  | .sendFrame => 0x32

/-- The command word of an operation (R91, R92): fields it does not use are zero. -/
def encode : Instr → Command
  | .regRead reg => commandWord 0x10 reg 0 0
  | .regWrite reg value => commandWord 0x11 reg value 0
  | .setBits reg mask => commandWord 0x12 reg mask 0
  | .clearBits reg mask => commandWord 0x13 reg mask 0
  | .readBits reg mask => commandWord 0x14 reg mask 0
  | .writeBits reg clearMask setMask => commandWord 0x15 reg clearMask setMask
  | .parseIpv4 text len => commandWord 0x20 0 text len
  | .hton16 v => commandWord 0x21 0 (v.setWidth 32) 0
  | .hton32 v => commandWord 0x22 0 v 0
  | .init => commandWord 0x30 0 0 0
  | .recvFrame buffer size => commandWord 0x31 0 buffer size
  | .sendFrame buffer size => commandWord 0x32 0 buffer size

/-- The command word whose low `nbits` bits are `w`, numbered as the opcode table numbers them; every bit above is 0. -/
def tableWord (nbits w : Nat) : Command := BitVec.ofNat 80 (w % 2 ^ nbits)

/-- What the decoder reads from an operation word given as a number of the opcode table. -/
def decodeTableWord (nbits w : Nat) : Option Instr :=
  match decode (tableWord nbits w) with
  | .op i => some i
  | .illegal _ => none

end Sys2Proof
end

