-- ==== Sys2Proof/Machine/Literals.lean ====
section
/-! DEFINITION. The numeric literals of the register block (bit positions and masks of 10_state.md R33 to R44, collected in
30_encoding.md R98) as one record. The source calls them unaudited, so each stands here once and reaches the meanings and
the reference device through the configuration record (00_scope.md R16, 93_implementation_defined.md section 3). -/

namespace Sys2Proof.Machine

/-- The literals. A register with one field of 32 bits, and the port field (a `u16` widened with zeros, R34), have no
mask. -/
structure Literals where
  /-- `CTRL_ENABLE` (R35). -/
  ctrlEnable : Word
  /-- `CTRL_RX_START` (R35). -/
  ctrlRxStart : Word
  /-- `CTRL_TX_START` (R35). -/
  ctrlTxStart : Word
  /-- `RX_READY` (R37). -/
  rxReady : Word
  /-- `RXFIFO_EMPTY` (R40). -/
  rxfifoEmpty : Word
  /-- `RXFIFO_BYTE` (R40). -/
  rxfifoByte : Word
  /-- `TXFIFO_BYTE` (R41). -/
  txfifoByte : Word
  deriving DecidableEq, Repr

/-- The values the spec gives (R98; `TXFIFO_BYTE`: R41). -/
def literals : Literals where
  ctrlEnable := 0x00000001
  ctrlRxStart := 0x00000002
  ctrlTxStart := 0x00000004
  rxReady := 0x00000001
  rxfifoEmpty := 0x80000000
  rxfifoByte := 0x000000FF
  txfifoByte := 0x000000FF

end Sys2Proof.Machine
end

