-- ==== Sys2Proof/Config.lean ====
section
/-! DEFINITION. The parameters of the accessor (00_scope.md R9) as one record, the layout of the register block
(10_state.md R31), and the free values: what the spec leaves open and no proof can see.
A claim that holds for every `Config` holds for every accessor the spec admits. -/

namespace Sys2Proof

/-- The map from register name to byte offset from `BASE`, and the two reserved ranges, each an offset and a number of
32-bit words (R30, R31). OPEN in the spec. -/
structure Layout where
  rxip : Nat
  txip : Nat
  rxport : Nat
  txport : Nat
  ctrl : Nat
  status : Nat
  rxStatus : Nat
  txStatus : Nat
  rxsize : Nat
  txsize : Nat
  rxfifoData : Nat
  txfifoData : Nat
  rxfifoSize : Nat
  txfifoSize : Nat
  rsvd0 : Nat
  rsvd0Words : Nat
  rsvd1 : Nat
  rsvd1Words : Nat
  deriving DecidableEq, Repr

/-- `DEFAULT_LAYOUT` of R31: the spec's own placeholder numbers (92_eei_decisions.md D4). -/
def Layout.default : Layout where
  rxip := 0x00
  txip := 0x04
  rxport := 0x08
  txport := 0x0C
  ctrl := 0x10
  status := 0x14
  rxStatus := 0x18
  txStatus := 0x1C
  rxsize := 0x20
  txsize := 0x24
  rxfifoData := 0x2C
  txfifoData := 0x30
  rxfifoSize := 0x38
  txfifoSize := 0x3C
  rsvd0 := 0x28
  rsvd0Words := 1
  rsvd1 := 0x34
  rsvd1Words := 1

/-- `LAYOUT(r)`, the byte offset of a register (R31). -/
def Layout.offset (l : Layout) : Reg → Nat
  | .rxip => l.rxip
  | .txip => l.txip
  | .rxport => l.rxport
  | .txport => l.txport
  | .ctrl => l.ctrl
  | .status => l.status
  | .rxStatus => l.rxStatus
  | .txStatus => l.txStatus
  | .rxsize => l.rxsize
  | .txsize => l.txsize
  | .rxfifoData => l.rxfifoData
  | .txfifoData => l.txfifoData
  | .rxfifoSize => l.rxfifoSize
  | .txfifoSize => l.txfifoSize

/-- The sixteen byte ranges of the block, each a first offset and a length: fourteen register words and the two reserved
ranges (R31). -/
def Layout.ranges (l : Layout) : List (Nat × Nat) :=
  [(l.rxip, 4), (l.txip, 4), (l.rxport, 4), (l.txport, 4), (l.ctrl, 4), (l.status, 4), (l.rxStatus, 4)] ++
  [(l.txStatus, 4), (l.rxsize, 4), (l.txsize, 4), (l.rxfifoData, 4), (l.txfifoData, 4), (l.rxfifoSize, 4)] ++
  [(l.txfifoSize, 4), (l.rsvd0, 4 * l.rsvd0Words), (l.rsvd1, 4 * l.rsvd1Words)]

/-- Two byte ranges share no byte. -/
def rangesDisjoint (x y : Nat × Nat) : Bool := x.1 + x.2 ≤ y.1 || y.1 + y.2 ≤ x.1

/-- Every range of a list shares no byte with a later one. -/
def pairwiseDisjoint : List (Nat × Nat) → Bool
  | [] => true
  | x :: rest => rest.all (rangesDisjoint x) && pairwiseDisjoint rest

/-- One past the last byte of the block. -/
def Layout.span (l : Layout) : Nat := l.ranges.foldl (fun m x => max m (x.1 + x.2)) 0

/-- The constraints every layout must meet (R31): offsets are multiples of 4, the ranges are pairwise disjoint, each
reserved range is at least one word. -/
def Layout.wf (l : Layout) : Bool :=
  l.ranges.all (fun x => x.1 % 4 == 0) && pairwiseDisjoint l.ranges && 1 ≤ l.rsvd0Words && 1 ≤ l.rsvd1Words

/-- The parameters of 00_scope.md R9. They are configuration, not state (10_state.md R25): no step changes them. -/
structure Config where
  /-- `BASE`, the byte address of the register block. -/
  base : Nat
  /-- `LAYOUT`. -/
  layout : Layout
  /-- `AW`: host memory has `2 ^ addrWidth` bytes. -/
  addrWidth : Nat
  /-- `POLL_LIMIT`: none, or the largest number of reads one poll loop may issue. -/
  pollLimit : Option Nat
  /-- `OCTET_ACC_WIDTH`. -/
  octetWidth : Nat
  /-- `RX_DEPTH` (reference device only). -/
  rxDepth : Nat
  /-- `TX_DEPTH` (reference device only). -/
  txDepth : Nat
  /-- `CFG_RX_IP`, the characters of the text. -/
  rxIp : List Byte
  /-- `CFG_TX_IP`. -/
  txIp : List Byte
  /-- `CFG_RX_PORT`. -/
  rxPort : Half
  /-- `CFG_TX_PORT`. -/
  txPort : Half
  /-- `CFG_RX_FRAME_SIZE`; the accessor itself never reads it. -/
  rxFrameSize : Word
  /-- `CFG_TX_FRAME_SIZE`; the accessor itself never reads it. -/
  txFrameSize : Word
  /-- The bit masks of the register block (R16, 30_encoding.md R98; 93_implementation_defined.md section 3). -/
  literals : Machine.Literals
  deriving DecidableEq, Repr

/-- The constraints of R9: `BASE` is a multiple of 4, the whole block lies below `2 ^ AW`, the layout is legal,
`POLL_LIMIT` is never 0 (90_conflicts.md C10), and the octet accumulator has between 1 and 32 bits. -/
def Config.wf (c : Config) : Bool :=
  c.base % 4 == 0 && c.base + c.layout.span ≤ 2 ^ c.addrWidth && c.layout.wf && c.pollLimit != some 0 &&
    1 ≤ c.octetWidth && c.octetWidth ≤ 32

/-- The byte address of a bus transaction on a register: `BASE + LAYOUT(r)` (20_memory.md R61). -/
def Config.busAddress (c : Config) (r : Reg) : Nat := c.base + c.layout.offset r

/-- The device steps of the reference device (43_peripheral_environment.md R230). -/
inductive DeviceMove where
  /-- `dev_rx_byte`: one byte arrives from the wire. -/
  | rxByte
  /-- `dev_tx_byte`: one byte leaves for the wire. -/
  | txByte
  deriving DecidableEq, Repr

/-- FREE VALUE. `draw(32)` (00_scope.md R12): the value of the n-th draw, under no law. -/
opaque Config.draw : Nat → Word

/-- FREE VALUE. The steps the reference device takes before an accessor step when the state's schedule does not say
(43_peripheral_environment.md R230: any number, in any order). -/
opaque Config.deviceMoves : Nat → List DeviceMove

/-- OPEN parameter `BASE` as built, before it is made a legal base. -/
opaque Config.openBase : Nat

/-- OPEN parameter `RX_DEPTH` as built. -/
opaque Config.openRxDepth : Nat

/-- OPEN parameter `TX_DEPTH` as built. -/
opaque Config.openTxDepth : Nat

/-- OPEN parameter `CFG_RX_IP` as built. -/
opaque Config.openRxIp : List Byte

/-- OPEN parameter `CFG_TX_IP` as built. -/
opaque Config.openTxIp : List Byte

/-- OPEN parameter `CFG_RX_PORT` as built. -/
opaque Config.openRxPort : Half

/-- OPEN parameter `CFG_TX_PORT` as built. -/
opaque Config.openTxPort : Half

/-- OPEN parameter `CFG_RX_FRAME_SIZE` as built. -/
opaque Config.openRxFrameSize : Word

/-- OPEN parameter `CFG_TX_FRAME_SIZE` as built. -/
opaque Config.openTxFrameSize : Word

/-- The configuration right after reset: R9's default where R9 gives one, a free value where R9 says OPEN, the
literals of R98. The base is any multiple of 4 that leaves room for the block below `2 ^ 32`. -/
def Config.asBuilt : Config where
  base := 4 * (Config.openBase % (2 ^ 30 - 15))
  layout := Layout.default
  addrWidth := 32
  pollLimit := none
  octetWidth := 8
  rxDepth := Config.openRxDepth
  txDepth := Config.openTxDepth
  rxIp := Config.openRxIp
  txIp := Config.openTxIp
  rxPort := Config.openRxPort
  txPort := Config.openTxPort
  rxFrameSize := Config.openRxFrameSize
  txFrameSize := Config.openTxFrameSize
  literals := Machine.literals

/-- The configuration of the test vectors (95_test_vectors.md, conventions and V60): `CFG_RX_IP = "10.0.0.5"`,
`CFG_RX_PORT = 9000`, `CFG_TX_IP = "127.0.0.1"`, `CFG_TX_PORT = 8080`, depths 16. Base and frame sizes are not used. -/
def Config.vectors : Config where
  base := 0
  layout := Layout.default
  addrWidth := 32
  pollLimit := none
  octetWidth := 8
  rxDepth := 16
  txDepth := 16
  rxIp := [0x31, 0x30, 0x2E, 0x30, 0x2E, 0x30, 0x2E, 0x35]
  txIp := [0x31, 0x32, 0x37, 0x2E, 0x30, 0x2E, 0x30, 0x2E, 0x31]
  rxPort := 9000
  txPort := 8080
  rxFrameSize := 0
  txFrameSize := 0
  literals := Machine.literals

end Sys2Proof
end

