-- ==== Sys2Proof/Machine/State.lean ====
section
/-! DEFINITION. The state of the machine as plain data (10_state.md): the accessor's latches, the register block, the hidden
state of the peripheral, host memory, the traces, and what the model adds so that one deterministic step can stand for
three agents (the caller's actions still to come, the environment's answers and schedule, a counter of free values).
Also the reasons a step can stop, the outcomes of an operation, and the state right after reset. -/

namespace Sys2Proof.Machine

/-- The phases of the two engine state machines, and `Idle` (10_state.md R22). -/
inductive Phase where
  | idle | configuring | waitingForData | draining | filling | drainWait | done
  deriving DecidableEq, Repr

/-- How an operation ends (60_exceptions.md R241). -/
inductive Ending where
  | ok | illegalCommand | reservedAccess | accessViolation | badRange
  | timeoutWaitingForData | timeoutDraining | timeoutDrainWait
  deriving DecidableEq, Repr

/-- The internal latches and the sequencing state of the accessor (R21, R22). -/
structure Latches where
  /-- `cur_op`: the operation in progress, or none. -/
  curOp : Option Op
  /-- `phase`; `Idle` for an operation that has no phases. -/
  phase : Phase
  /-- `opnd_reg`: the register id named. -/
  opndReg : BitVec 8
  /-- `opnd_a`. -/
  opndA : Word
  /-- `opnd_b`. -/
  opndB : Word
  /-- `buf`: host address of byte 0 of the frame buffer. -/
  buf : Word
  /-- `size_l`. -/
  sizeL : Word
  /-- `offset`: index of the next byte of the frame buffer. -/
  offset : Word
  /-- `tmp`: the value the last `BusRead` of this operation returned. -/
  tmp : Word
  /-- `polls`: reads issued by the current poll loop. -/
  polls : Nat
  /-- `sub_step`: how many of the writes of `INIT` or of `Configuring` have been issued. -/
  subStep : Fin 6
  /-- The model's own: the read half of a read-modify-write has been issued (20_memory.md R63 makes it two steps). -/
  readDone : Bool
  deriving DecidableEq, Repr

/-- The six storage registers: a read returns the last value written (R33, R34, R39, R48). -/
structure Storage where
  rxip : Word
  txip : Word
  rxport : Word
  txport : Word
  rxsize : Word
  txsize : Word
  deriving DecidableEq, Repr

/-- The hidden state of the peripheral, as the reference device has it (R48, 43_peripheral_environment.md R225). -/
structure Device where
  rxFifo : List Byte
  txFifo : List Byte
  enabled : Bool
  rxActive : Bool
  txActive : Bool
  rxReady : Bool
  /-- Ghost: bytes still to arrive from the wire. -/
  wireRx : List Byte
  /-- Ghost: bytes already sent onto the wire. -/
  wireTx : List Byte
  rxLeft : Word
  txLeft : Word
  /-- Sticky: the accessor did something the source gives no meaning to (R226, R228). -/
  deviceFault : Bool
  deriving DecidableEq, Repr

/-- One entry of `bus_trace`: `R(register, value returned)` or `W(register, value written)` (00_scope.md R13). -/
inductive BusEvent where
  | read (r : Reg) (v : Word)
  | write (r : Reg) (v : Word)
  deriving DecidableEq, Repr

/-- What the caller does next while the accessor is idle (70_reset_and_hazards.md R275). -/
inductive CallerAction where
  /-- Present one command word. -/
  | issue (word : Command)
  /-- Write one byte of host memory between two operations. -/
  | store (addr : Nat) (value : Byte)
  deriving DecidableEq, Repr

/-- What answers the bus (43_peripheral_environment.md). -/
inductive Environment where
  /-- The unconstrained environment (R222): the read script while it has an entry, else a free value. -/
  | unconstrained
  /-- The reference device (R225 to R230). -/
  | reference
  deriving DecidableEq, Repr

/-- Host memory: `(address, byte)` pairs, addresses strictly rising, no byte equal to what an unlisted address reads as. -/
abbrev Memory := List Host.Cell

/-- Why a step stops the machine. The spec has no such stop (60_exceptions.md R240, R253): both faults are the model's
own, for sequencing states that no run reaches. -/
inductive Fault where
  /-- Raised by a meaning that is called for one operation while another is in progress (10_state.md R45 excludes it).
  Safe: `step` never makes such a call, and no statement can rest on what would follow. -/
  | overlappingOperation
  /-- Raised by a meaning when its operation is in progress in a phase or sub-step its state machine does not have
  (42_frame_transfer_engine.md R197). Safe: unreachable from reset, and no statement can rest on what would follow. -/
  | badSequence
  deriving DecidableEq, Repr

/-- Why a step refuses an instruction. -/
inductive Refusal where
  /-- Raised only by an arm of `exec` whose operation has no meaning yet. Safe: the run stops there. -/
  | notModelled (mnemonic : String)
  deriving DecidableEq, Repr

/-- The whole machine. -/
structure State where
  /-- The configuration record (R9); no step changes it. -/
  cfg : Config
  /-- What the caller will still do, in order. -/
  caller : List CallerAction
  /-- The accessor's latches and sequencing state. -/
  seq : Latches
  /-- The storage registers of the block. -/
  regs : Storage
  /-- The hidden state of the reference device. -/
  dev : Device
  /-- Host memory. -/
  mem : Memory
  /-- `bus_trace`, oldest first (R13). -/
  busTrace : List BusEvent
  /-- The result words returned to the caller, oldest first (R96). -/
  results : List ResultWord
  /-- Which environment answers the bus. -/
  environment : Environment
  /-- The read script of the unconstrained environment (R223). -/
  answers : List (Reg × Word)
  /-- The steps the reference device takes before each accessor step (R230, the schedule of program P5). -/
  schedule : List (List DeviceMove)
  /-- How many free values have been taken. -/
  draws : Nat
  deriving DecidableEq, Repr

/-- The latches after reset: no operation in progress (R50); the rest DESIGN CHOICE zero, notes/assumptions/3.md. -/
def Latches.reset : Latches where
  curOp := none
  phase := .idle
  opndReg := 0
  opndA := 0
  opndB := 0
  buf := 0
  sizeL := 0
  offset := 0
  tmp := 0
  polls := 0
  subStep := 0
  readDone := false

/-- The storage registers after reset: DESIGN CHOICE zero (R50 leaves them unspecified), notes/assumptions/4.md. -/
def Storage.reset : Storage where
  rxip := 0
  txip := 0
  rxport := 0
  txport := 0
  rxsize := 0
  txsize := 0

/-- The reference device after reset (R225): FIFOs empty, booleans false, counters 0, wire traces empty (R50). -/
def Device.reset : Device where
  rxFifo := []
  txFifo := []
  enabled := false
  rxActive := false
  txActive := false
  rxReady := false
  wireRx := []
  wireTx := []
  rxLeft := 0
  txLeft := 0
  deviceFault := false

/-- The machine right after reset (R50, 70_reset_and_hazards.md R270). -/
def State.reset : State where
  cfg := Config.asBuilt
  caller := []
  seq := Latches.reset
  regs := Storage.reset
  dev := Device.reset
  mem := []
  busTrace := []
  results := []
  environment := .unconstrained
  answers := []
  schedule := []
  draws := 0

end Sys2Proof.Machine
end

