-- ==== Sys2Proof/Machine/Operands.lean ====
section
/-! DEFINITION. The operand forms and the pure functions over them: register ids and access rights (10_state.md R31, R32,
30_encoding.md R93), the range check (60_exceptions.md R244), the mask functions
(40_register_access.md R122), the byte swaps, the IPv4 text parser and the composed encoders (41_address_port_encoding.md),
and the byte image of a register (20_memory.md R66). -/

namespace Sys2Proof.Machine

/-- The register an id names (R93); ids 14 and 15 are the reserved gaps and the rest name nothing. -/
def regOfId (id : BitVec 8) : Option Reg :=
  match id.toNat with
  | 0 => some .rxip
  | 1 => some .txip
  | 2 => some .rxport
  | 3 => some .txport
  | 4 => some .ctrl
  | 5 => some .status
  | 6 => some .rxStatus
  | 7 => some .txStatus
  | 8 => some .rxsize
  | 9 => some .txsize
  | 10 => some .rxfifoData
  | 11 => some .txfifoData
  | 12 => some .rxfifoSize
  | 13 => some .txfifoSize
  | _ => none

/-- The id of a register (R31, R93). -/
def idOfReg : Reg → BitVec 8
  | .rxip => 0
  | .txip => 1
  | .rxport => 2
  | .txport => 3
  | .ctrl => 4
  | .status => 5
  | .rxStatus => 6
  | .txStatus => 7
  | .rxsize => 8
  | .txsize => 9
  | .rxfifoData => 10
  | .txfifoData => 11
  | .rxfifoSize => 12
  | .txfifoSize => 13

/-- The register accepts writes from the accessor (R32): it is not one of the six read-only registers. -/
def writable : Reg → Bool
  | .rxip => true
  | .txip => true
  | .rxport => true
  | .txport => true
  | .ctrl => true
  | .status => false
  | .rxStatus => false
  | .txStatus => false
  | .rxsize => true
  | .txsize => true
  | .rxfifoData => false
  | .txfifoData => true
  | .rxfifoSize => false
  | .txfifoSize => false

/-- The check of R125 on a register id: a named register, or the ending of the refusal. -/
def readTarget (id : BitVec 8) : Except Ending Reg :=
  match regOfId id with
  | some r => .ok r
  | none => if id.toNat ≤ 15 then .error .reservedAccess else .error .illegalCommand

/-- The checks of R125 and then R123, in the order of R126, for an operation that writes. -/
def writeTarget (id : BitVec 8) : Except Ending Reg :=
  match readTarget id with
  | .error e => .error e
  | .ok r => if writable r then .ok r else .error .accessViolation

/-- The byte range `[a, a + b)` passes the top of host memory (R244). -/
def badRange (c : Config) (a b : Word) : Bool := 2 ^ c.addrWidth < a.toNat + b.toNat

/-- `set_W` (R122). -/
def setMask (r m : BitVec w) : BitVec w := r ||| m

/-- `clear_W` (R122). -/
def clearMask (r m : BitVec w) : BitVec w := r &&& ~~~m

/-- `read_W` (R122). -/
def readMask (r m : BitVec w) : BitVec w := r &&& m

/-- `write_W` (R122): `s` is not first ANDed with `c`. -/
def writeMask (r c s : BitVec w) : BitVec w := (r &&& ~~~c) ||| s

/-- `HTON16` (R157): the two bytes exchanged. -/
def hton16 (v : Half) : Half := (v.setWidth 8 ++ v.extractLsb' 8 8)

/-- `HTON32` (R158): the four bytes reversed. -/
def hton32 (v : Word) : Word :=
  ((v.extractLsb' 0 8 ++ v.extractLsb' 8 8) ++ v.extractLsb' 16 8) ++ v.extractLsb' 24 8

/-- The internal parse tag (R153). -/
inductive ParseTag where
  | parsed | invalidChar | wrongCount
  deriving DecidableEq, Repr

/-- The character `.` (R99). -/
def charDot : Byte := 0x2E

/-- The character `0` (R99). -/
def charZero : Byte := 0x30

/-- The character is one of the ten digits (R99). -/
def isDigit (c : Byte) : Bool := 0x30 ≤ c.toNat && c.toNat ≤ 0x39

/-- The number a digit character stands for. -/
def digitValue (c : Byte) : Nat := c.toNat - 0x30

/-- One more digit on the octet being accumulated, modulo 2 to the accumulator's width (R151, R155). -/
def addDigit (width : Nat) (oct : Nat) (c : Byte) : Nat := (oct * 10 + digitValue c) % 2 ^ width

/-- Close an octet: shift the address being assembled and put the octet into its low bits (R151). -/
def closeOctet (acc : Word) (oct : Nat) : Word := (acc <<< 8) ||| BitVec.ofNat 32 oct

/-- The scan of R151, from the characters left, the address assembled, the octet being accumulated and the octets
closed so far. -/
def scanIpv4 (width : Nat) : List Byte → Word → Nat → Nat → ParseTag × Word
  | [], acc, oct, count =>
    if count + 1 = 4 then (.parsed, closeOctet acc oct) else (.wrongCount, 0)
  | c :: rest, acc, oct, count =>
    if c = charDot then scanIpv4 width rest (closeOctet acc oct) 0 (count + 1)
    else if isDigit c then scanIpv4 width rest acc (addDigit width oct c) count
    else (.invalidChar, 0)

/-- `parse_ipv4` (R151): the internal tag and the value, 0 on failure. -/
def parseIpv4 (width : Nat) (text : List Byte) : ParseTag × Word := scanIpv4 width text 0 0 0

/-- `encode_ip` (R159). -/
def encodeIp (width : Nat) (text : List Byte) : Word := hton32 (parseIpv4 width text).2

/-- `encode_port` (R160). -/
def encodePort (p : Half) : Word := (hton16 p).setWidth 32

/-- The character of a decimal digit. -/
def digitChar (d : Nat) : Byte := BitVec.ofNat 8 (0x30 + d)

/-- The decimal numeral of a byte, without leading zeros ("0" for zero). -/
def numeral (b : Byte) : List Byte :=
  if b.toNat < 10 then [digitChar b.toNat]
  else if b.toNat < 100 then [digitChar (b.toNat / 10), digitChar (b.toNat % 10)]
  else [digitChar (b.toNat / 100), digitChar (b.toNat / 10 % 10), digitChar (b.toNat % 10)]

/-- `format_ipv4` (R162): no operation of the accessor; the inverse that the round trip is stated with. -/
def formatIpv4 (v : Word) : List Byte :=
  numeral (v.extractLsb' 24 8) ++ charDot :: (numeral (v.extractLsb' 16 8) ++ charDot ::
    (numeral (v.extractLsb' 8 8) ++ charDot :: numeral (v.extractLsb' 0 8)))

/-- Byte `k` of the little-endian memory image of a register value (R66): the byte at `BASE + LAYOUT(r) + k`. -/
def imageByte (v : Word) (k : Nat) : Byte := v.extractLsb' (8 * k) 8

/-- The 8-bit code of an ending (R241). -/
def Ending.code : Ending → BitVec 8
  | .ok => 0x00
  | .illegalCommand => 0x01
  | .reservedAccess => 0x02
  | .accessViolation => 0x03
  | .badRange => 0x04
  | .timeoutWaitingForData => 0x05
  | .timeoutDraining => 0x06
  | .timeoutDrainWait => 0x07

/-- The result word `code ++ value` (R96). -/
def resultWord (e : Ending) (v : Word) : ResultWord := e.code ++ v

end Sys2Proof.Machine
end

