-- ==== Sys2Proof/Machine/Flags.lean ====
section
/-! DEFINITION. The condition bits (10_state.md R24). The accessor has no flags register: each condition is read from the
value of one bus read, in the step that issues the read, and none is kept. The masks are those of the configuration record. -/

namespace Sys2Proof.Machine

/-- "Receive data ready": bit 0 of a read of `RX_STATUS` (R37, 42_frame_transfer_engine.md R181). -/
def rxReadyBit (l : Literals) (v : Word) : Bool := v &&& l.rxReady != 0

/-- "Fifo empty": bit 31 of a read of `RXFIFO_DATA` (R40, R184). -/
def fifoEmptyBit (l : Literals) (v : Word) : Bool := v &&& l.rxfifoEmpty != 0

/-- The data byte of a read of `RXFIFO_DATA`: its low 8 bits (R40, R184). -/
def fifoByte (l : Literals) (v : Word) : Byte := (v &&& l.rxfifoByte).setWidth 8

/-- The transmit FIFO is drained: a read of `TXFIFO_SIZE` is zero in all 32 bits (R43, R194). -/
def txDrained (v : Word) : Bool := v == 0

end Sys2Proof.Machine
end

