-- ==== Sys2Proof/Machine/Peripheral.lean ====
section
/-! DEFINITION. The peripheral as it answers bus transactions: the storage registers, which every environment keeps
(43_peripheral_environment.md R219), the reference device (R225 to R230), and the read script of the unconstrained
environment (R222, R223). -/

namespace Sys2Proof.Machine

/-- The stored value of a storage register; none for a register that stores nothing (R48). -/
def Storage.read (g : Storage) : Reg → Option Word
  | .rxip => some g.rxip
  | .txip => some g.txip
  | .rxport => some g.rxport
  | .txport => some g.txport
  | .ctrl => none
  | .status => none
  | .rxStatus => none
  | .txStatus => none
  | .rxsize => some g.rxsize
  | .txsize => some g.txsize
  | .rxfifoData => none
  | .txfifoData => none
  | .rxfifoSize => none
  | .txfifoSize => none

/-- Replace the stored value of a storage register (20_memory.md R68); a register that stores nothing keeps nothing. -/
def Storage.write (g : Storage) (r : Reg) (v : Word) : Storage :=
  match r with
  | .rxip => { g with rxip := v }
  | .txip => { g with txip := v }
  | .rxport => { g with rxport := v }
  | .txport => { g with txport := v }
  | .ctrl => g
  | .status => g
  | .rxStatus => g
  | .txStatus => g
  | .rxsize => { g with rxsize := v }
  | .txsize => { g with txsize := v }
  | .rxfifoData => g
  | .txfifoData => g
  | .rxfifoSize => g
  | .txfifoSize => g

/-- The value the reference device answers to a read of a register that stores nothing (R227). DESIGN CHOICE,
notes/assumptions/27.md: R227 answers `length(fifo)` as a `u32` and says nothing of a length of `2 ^ 32` or more (the depths
are OPEN); the model answers the length modulo `2 ^ 32`. -/
def Device.readValue (d : Device) (l : Literals) (r : Reg) : Word :=
  match r with
  | .rxStatus => if d.rxReady then l.rxReady else 0
  | .rxfifoSize => BitVec.ofNat 32 d.rxFifo.length
  | .txfifoSize => BitVec.ofNat 32 d.txFifo.length
  | .rxfifoData =>
    match d.rxFifo with
    | [] => l.rxfifoEmpty
    | b :: _ => b.setWidth 32
  | .status => 0
  | .txStatus => 0
  | .ctrl => 0
  | .txfifoData => 0
  | .rxip => 0
  | .txip => 0
  | .rxport => 0
  | .txport => 0
  | .rxsize => 0
  | .txsize => 0

/-- The reference device after a read: only a read of `RXFIFO_DATA` changes it, by removing the head (R227). -/
def Device.afterRead (d : Device) (r : Reg) : Device :=
  if r = .rxfifoData then { d with rxFifo := d.rxFifo.tail } else d

/-- The command bit of a `CTRL` word that a mask names is set (R35). -/
def commandBit (mask v : Word) : Bool := v &&& mask != 0

/-- How many of the three command bits are set. -/
def commandBits (l : Literals) (v : Word) : Nat :=
  (commandBit l.ctrlEnable v).toNat + (commandBit l.ctrlRxStart v).toNat + (commandBit l.ctrlTxStart v).toNat

/-- The word has more than one command bit, or a bit that is no command bit (R226, U3): no meaning is given to it. -/
def meaninglessCommand (l : Literals) (v : Word) : Bool :=
  1 < commandBits l v || v &&& ~~~(l.ctrlEnable ||| l.ctrlRxStart ||| l.ctrlTxStart) != 0

/-- The reference device after a write of `CTRL` (R226); the storage registers give the frame lengths. -/
def Device.command (d : Device) (l : Literals) (g : Storage) (v : Word) : Device :=
  if meaninglessCommand l v then { d with deviceFault := true }
  else if commandBit l.ctrlEnable v then { d with enabled := true }
  else if commandBit l.ctrlRxStart v then { d with rxActive := true, rxLeft := g.rxsize, rxReady := false }
  else if commandBit l.ctrlTxStart v then { d with txActive := true, txLeft := g.txsize }
  else d

/-- The reference device after a write of `TXFIFO_DATA` (R228): a byte at the tail, or a fault when the FIFO is full (U4). -/
def Device.push (d : Device) (l : Literals) (depth : Nat) (v : Word) : Device :=
  if d.txFifo.length < depth then { d with txFifo := d.txFifo ++ [(v &&& l.txfifoByte).setWidth 8] }
  else { d with deviceFault := true }

/-- The reference device after a bus write (R226, R228). A write of a storage register changes only the stored value. -/
def Device.write (d : Device) (c : Config) (g : Storage) (r : Reg) (v : Word) : Device :=
  if r = .ctrl then d.command c.literals g v
  else if r = .txfifoData then d.push c.literals c.txDepth v
  else d

/-- `dev_rx_byte` (R230): one byte from the wire into the receive FIFO; no change when it is not enabled. -/
def Device.rxByteStep (d : Device) (depth : Nat) : Device :=
  match d.wireRx with
  | [] => d
  | b :: rest =>
    if d.enabled ∧ d.rxActive ∧ d.rxLeft ≠ 0 ∧ d.rxFifo.length < depth then
      { d with
        wireRx := rest
        rxFifo := d.rxFifo ++ [b]
        rxLeft := d.rxLeft - 1
        rxReady := true
        rxActive := d.rxLeft - 1 != 0 }
    else d

/-- `dev_tx_byte` (R230): one byte from the transmit FIFO onto the wire; no change when it is not enabled. -/
def Device.txByteStep (d : Device) : Device :=
  match d.txFifo with
  | [] => d
  | b :: rest =>
    if d.enabled ∧ d.txActive then
      let left := if d.txLeft = 0 then 0 else d.txLeft - 1
      { d with
        txFifo := rest
        wireTx := d.wireTx ++ [b]
        txLeft := left
        txActive := !(left == 0 && rest.isEmpty) }
    else d

/-- One device step (R230). -/
def Device.move (d : Device) (c : Config) : DeviceMove → Device
  | .rxByte => d.rxByteStep c.rxDepth
  | .txByte => d.txByteStep

/-- A sequence of device steps, in order (R230). -/
def Device.moves (d : Device) (c : Config) (ms : List DeviceMove) : Device := ms.foldl (fun d m => d.move c m) d

/-- The next value the read script holds for a register (R223). -/
def scripted : List (Reg × Word) → Reg → Option Word
  | [], _ => none
  | (q, v) :: rest, r => if q = r then some v else scripted rest r

/-- The read script without its next value for a register. -/
def dropScripted : List (Reg × Word) → Reg → List (Reg × Word)
  | [], _ => []
  | (q, v) :: rest, r => if q = r then rest else (q, v) :: dropScripted rest r

/-- What the peripheral does before an accessor step. The unconstrained environment does all it does in its answers
(R222); the reference device takes the steps of the schedule's next entry, or, when the schedule is used up, steps that
are a free value (R230: any number, in any order). -/
def State.peripheralMoves (s : State) : State :=
  match s.environment with
  | .unconstrained => s
  | .reference =>
    match s.schedule with
    | ms :: rest => { s with dev := s.dev.moves s.cfg ms, schedule := rest }
    | [] => { s with dev := s.dev.moves s.cfg (Config.deviceMoves s.draws), draws := s.draws + 1 }

end Sys2Proof.Machine
end

