-- ==== Sys2Proof/Machine/Ops.lean ====
section
/-! DEFINITION. The named operations every meaning is written with (00_scope.md R12): bytes of host memory, bus reads and
writes, starting an operation, ending it with a value, and ending it with an outcome other than `Ok` (the accessor's
analogue of taking an exception, 60_exceptions.md R240, R251), the poll limit (42_frame_transfer_engine.md R177), and the
caller's next action. -/

namespace Sys2Proof.Machine

/-- What a meaning answers. -/
abbrev Answer := Host.Outcome State Fault Refusal

/-- What a byte of host memory that nothing has written reads as: DESIGN CHOICE, notes/assumptions/5.md. -/
def blankByte : Byte := 0

/-- One byte of host memory. -/
def Memory.read : Memory → Nat → Byte
  | [], _ => blankByte
  | (k, b) :: rest, a => if k = a then b else Memory.read rest a

/-- A cell in front of a memory, left out when it holds what an unlisted address reads as. -/
def Memory.put (a : Nat) (v : Byte) (m : Memory) : Memory := if v = blankByte then m else (a, v) :: m

/-- Write one byte of host memory, keeping the canonical form. -/
def Memory.write : Memory → Nat → Byte → Memory
  | [], a, v => Memory.put a v []
  | (k, b) :: rest, a, v =>
    if a < k then Memory.put a v ((k, b) :: rest)
    else if a = k then Memory.put a v rest
    else (k, b) :: Memory.write rest a v

/-- The canonical form: addresses strictly rising, no byte equal to what an unlisted address reads as. -/
def Memory.wf : Memory → Bool
  | [] => true
  | (k, b) :: rest => b != blankByte && rest.all (fun c => k < c.1) && Memory.wf rest

/-- Every listed address exists: it lies below the top of host memory (10_state.md R46). -/
def Memory.below (top : Nat) (m : Memory) : Bool := m.all (fun c => c.1 < top)

/-- The host address of byte `i` of the frame buffer: `buf + i` in `AW` bits (10_state.md R47,
42_frame_transfer_engine.md R200). -/
def State.bufferAddress (s : State) (i : Word) : Nat := (s.seq.buf.toNat + i.toNat) % 2 ^ s.cfg.addrWidth

/-- `n` bytes of host memory from an address upward, in ascending order (41_address_port_encoding.md R150). -/
def Memory.bytes (m : Memory) : Nat → Nat → List Byte
  | _, 0 => []
  | a, n + 1 => Memory.read m a :: Memory.bytes m (a + 1) n

/-- Store one byte of host memory. -/
def State.memWrite (s : State) (a : Nat) (v : Byte) : State := { s with mem := Memory.write s.mem a v }

/-- The value the peripheral answers to a read of a register (43_peripheral_environment.md R219, R222, R227). -/
def State.readValue (s : State) (r : Reg) : Word :=
  match s.regs.read r with
  | some v => v
  | none =>
    match s.environment with
    | .unconstrained => (scripted s.answers r).getD (Config.draw s.draws)
    | .reference => s.dev.readValue s.cfg.literals r

/-- What a read does to the peripheral (20_memory.md R68): nothing for a storage register; the script moves on or a free
value is used up in the unconstrained environment; the reference device pops its receive FIFO. -/
def State.afterRead (s : State) (r : Reg) : State :=
  match s.regs.read r with
  | some _ => s
  | none =>
    match s.environment with
    | .unconstrained =>
      match scripted s.answers r with
      | some _ => { s with answers := dropScripted s.answers r }
      | none => { s with draws := s.draws + 1 }
    | .reference => { s with dev := s.dev.afterRead r }

/-- `BusRead(r)` (R12): one read transaction; the value stands in `tmp` and is recorded in `bus_trace`. -/
def State.busRead (s : State) (r : Reg) : State :=
  { s.afterRead r with
    seq := { s.seq with tmp := s.readValue r }
    busTrace := s.busTrace ++ [.read r (s.readValue r)] }

/-- The hidden state of the peripheral after a write: the reference device's own rules (R226, R228); in the unconstrained
environment no device stands behind the bus. -/
def State.deviceAfterWrite (s : State) (r : Reg) (v : Word) : Device :=
  match s.environment with
  | .unconstrained => s.dev
  | .reference => s.dev.write s.cfg s.regs r v

/-- `BusWrite(r, v)` (R12): one write transaction, recorded in `bus_trace`. -/
def State.busWrite (s : State) (r : Reg) (v : Word) : State :=
  { s with
    regs := s.regs.write r v
    dev := s.deviceAfterWrite r v
    busTrace := s.busTrace ++ [.write r v] }

/-- The operation in progress ends and its result word goes to the caller (30_encoding.md R96). -/
def State.finish (s : State) (e : Ending) (v : Word) : State :=
  { s with
    seq := { s.seq with curOp := none, phase := .idle }
    results := s.results ++ [resultWord e v] }

/-- `return v` (R12): outcome `Ok` with a value, 0 for an operation that has none. -/
def State.ret (s : State) (v : Word) : State := s.finish .ok v

/-- `raise e` (R12, 60_exceptions.md R240): the operation ends at once, nothing is undone, the value is 0. There is no
saved state and no return from it (R251, R252). -/
def State.raise (s : State) (e : Ending) : State := s.finish e 0

/-- Start an operation: latch its name and operands (10_state.md R21). -/
def State.start (s : State) (op : Op) (a b : Word) : State :=
  { s with seq := { s.seq with curOp := some op, opndA := a, opndB := b, subStep := 0, readDone := false } }

/-- Start a register-access operation: the register id is latched too (R21). -/
def State.startReg (s : State) (op : Op) (reg : BitVec 8) (a b : Word) : State :=
  { s with
    seq := { s.seq with
      curOp := some op, opndReg := reg, opndA := a, opndB := b, subStep := 0, readDone := false } }

/-- The read half of a read-modify-write has been issued. -/
def State.markRead (s : State) : State := { s with seq := { s.seq with readDone := true } }

/-- `sub_step <- n`. -/
def State.setSubStep (s : State) (n : Fin 6) : State := { s with seq := { s.seq with subStep := n } }

/-- `phase <- P`. -/
def State.setPhase (s : State) (p : Phase) : State := { s with seq := { s.seq with phase := p } }

/-- `offset <- n`. -/
def State.setOffset (s : State) (n : Word) : State := { s with seq := { s.seq with offset := n } }

/-- `polls <- n`. -/
def State.setPolls (s : State) (n : Nat) : State := { s with seq := { s.seq with polls := n } }

/-- An operation that ends in the step that accepts it: its answer when the accessor is idle. Operations do not overlap
(10_state.md R45). -/
def State.whenIdle (s : State) (answer : Answer) : Answer :=
  match s.seq.curOp with
  | none => answer
  | some _ => .fault .overlappingOperation

/-- An operation of several steps: its first step when the accessor is idle, its next one while it is in progress. -/
def State.firstOrNext (s : State) (op : Op) (first next : Answer) : Answer :=
  match s.seq.curOp with
  | none => first
  | some cur => if cur = op then next else .fault .overlappingOperation

/-- The poll loop has issued as many reads as `POLL_LIMIT` allows (42_frame_transfer_engine.md R177). -/
def State.pollsExhausted (s : State) : Bool := s.cfg.pollLimit == some s.seq.polls

/-- The operation in progress, rebuilt from the latches (R21, R22). -/
def State.currentInstr (s : State) (op : Op) : Instr := Instr.ofFields op s.seq.opndReg s.seq.opndA s.seq.opndB

/-- Put one command word in front of everything the caller will do, on an idle accessor, so that the next step takes it. -/
def State.withCommand (s : State) (w : Command) : State :=
  { s with
    caller := .issue w :: s.caller
    seq := { s.seq with curOp := none, phase := .idle } }

/-- The caller's own write of one byte of host memory between two operations (70_reset_and_hazards.md R275); the low `AW`
bits of the address count. -/
def State.callerStore (s : State) (a : Nat) (v : Byte) : State := s.memWrite (a % 2 ^ s.cfg.addrWidth) v

end Sys2Proof.Machine
end

