-- ==== Sys2Proof/Machine/AddressEncoding.lean ====
section
/-! DEFINITION. The three operations of the Address/Port Encoding (41_address_port_encoding.md). They issue no bus
transaction and write no host memory (R150). -/

namespace Sys2Proof.Machine

/-- An encoding operation ends in the step that accepts it, with its value (R150). -/
def State.encodingResult (s : State) (op : Op) (a b v : Word) : Answer := .next ((s.start op a b).ret v)

/-- `PARSE_IPV4 text -> v` (R151): the range check, then the scan of the text in host memory. The internal tag is dropped
(R153). -/
def execParseIpv4 (text len : Word) (s : State) : Answer :=
  s.whenIdle <|
    if badRange s.cfg text len then .next (s.raise .badRange)
    else
      s.encodingResult .parseIpv4 text len
        (parseIpv4 s.cfg.octetWidth (Memory.bytes s.mem text.toNat len.toNat)).2

/-- `HTON16 v -> w` (R157). -/
def execHton16 (v : Half) (s : State) : Answer :=
  s.whenIdle (s.encodingResult .hton16 (v.setWidth 32) 0 ((hton16 v).setWidth 32))

/-- `HTON32 v -> w` (R158). -/
def execHton32 (v : Word) (s : State) : Answer :=
  s.whenIdle (s.encodingResult .hton32 v 0 (hton32 v))

end Sys2Proof.Machine
end

