-- ==== Sys2Proof/Machine/FrameEngine.lean ====
section
/-! DEFINITION. The three operations of the Frame Transfer Engine as state machines, one step at a time
(42_frame_transfer_engine.md, transition table R197). -/

namespace Sys2Proof.Machine

/-- One of the five writes of `INIT`, or its return (R171). -/
def State.initStep (s : State) : Answer :=
  match s.seq.subStep with
  | 0 => .next ((s.busWrite .rxip (encodeIp s.cfg.octetWidth s.cfg.rxIp)).setSubStep 1)
  | 1 => .next ((s.busWrite .txip (encodeIp s.cfg.octetWidth s.cfg.txIp)).setSubStep 2)
  | 2 => .next ((s.busWrite .rxport (encodePort s.cfg.rxPort)).setSubStep 3)
  | 3 => .next ((s.busWrite .txport (encodePort s.cfg.txPort)).setSubStep 4)
  | 4 => .next ((s.busWrite .ctrl s.cfg.literals.ctrlEnable).setSubStep 5)
  | 5 => .next (s.ret 0)

/-- Accept a transfer: the range check (R244), then the operands are latched and the phase is `Configuring` (R178, R188).
No transaction (R197). -/
def State.acceptTransfer (s : State) (op : Op) (buffer size : Word) : Answer :=
  if badRange s.cfg buffer size then .next (s.raise .badRange)
  else
    let t := s.start op buffer size
    .next { t with seq := { t.seq with buf := buffer, sizeL := size, phase := .configuring } }

/-- `Configuring` of either direction (R179, R189): the size register first, then the start command in `CTRL`. -/
def State.configureStep (s : State) (sizeReg : Reg) (command : Word) (configured : State → State) : Answer :=
  match s.seq.subStep with
  | 0 => .next ((s.busWrite sizeReg s.seq.sizeL).setSubStep 1)
  | 1 => .next (configured ((s.busWrite .ctrl command).setSubStep 2))
  | 2 => .fault .badSequence
  | 3 => .fault .badSequence
  | 4 => .fault .badSequence
  | 5 => .fault .badSequence

/-- One iteration of a poll loop (R177): the limit is tested before the read; the loop is left in the step of the read
that satisfies the predicate. -/
def State.pollStep (s : State) (r : Reg) (satisfied : Word → Bool) (timeout : Ending) (leave : State → State) : Answer :=
  if s.pollsExhausted then .next (s.raise timeout)
  else
    let t := (s.busRead r).setPolls (s.seq.polls + 1)
    .next (if satisfied t.seq.tmp then leave t else t)

/-- One step of `Draining` (R184). -/
def State.drainStep (s : State) : Answer :=
  if s.seq.offset = s.seq.sizeL then .next (s.setPhase .done)
  else
    let t := s.busRead .rxfifoData
    if fifoEmptyBit s.cfg.literals t.seq.tmp then
      let u := t.setPolls (s.seq.polls + 1)
      .next (if u.pollsExhausted then u.raise .timeoutDraining else u)
    else
      .next (((t.memWrite (s.bufferAddress s.seq.offset) (fifoByte s.cfg.literals t.seq.tmp)).setOffset (s.seq.offset + 1)).setPolls 0)

/-- One step of `Filling` (R191). -/
def State.fillStep (s : State) : Answer :=
  if s.seq.offset = s.seq.sizeL then .next ((s.setPhase .drainWait).setPolls 0)
  else
    .next ((s.busWrite .txfifoData ((Memory.read s.mem (s.bufferAddress s.seq.offset)).setWidth 32)).setOffset
      (s.seq.offset + 1))

/-- One step of `RECV_FRAME` in progress (R178, R197). -/
def State.recvStep (s : State) : Answer :=
  match s.seq.phase with
  | .configuring =>
    s.configureStep .rxsize s.cfg.literals.ctrlRxStart (fun t => (t.setPhase .waitingForData).setPolls 0)
  | .waitingForData =>
    s.pollStep .rxStatus (rxReadyBit s.cfg.literals) .timeoutWaitingForData
      (fun t => ((t.setOffset 0).setPhase .draining).setPolls 0)
  | .draining => s.drainStep
  | .done => .next (s.ret 0)
  | .idle => .fault .badSequence
  | .filling => .fault .badSequence
  | .drainWait => .fault .badSequence

/-- One step of `SEND_FRAME` in progress (R188, R197). -/
def State.sendStep (s : State) : Answer :=
  match s.seq.phase with
  | .configuring =>
    s.configureStep .txsize s.cfg.literals.ctrlTxStart (fun t => (t.setOffset 0).setPhase .filling)
  | .filling => s.fillStep
  | .drainWait =>
    s.pollStep .txfifoSize txDrained .timeoutDrainWait (fun t => t.setPhase .done)
  | .done => .next (s.ret 0)
  | .idle => .fault .badSequence
  | .waitingForData => .fault .badSequence
  | .draining => .fault .badSequence

/-- `INIT` (R171): the step that accepts it issues the first write. -/
def execInit (s : State) : Answer := s.firstOrNext .init (s.start .init 0 0).initStep s.initStep

/-- `RECV_FRAME buffer, size` (R178). -/
def execRecvFrame (buffer size : Word) (s : State) : Answer :=
  s.firstOrNext .recvFrame (s.acceptTransfer .recvFrame buffer size) s.recvStep

/-- `SEND_FRAME buffer, size` (R188). -/
def execSendFrame (buffer size : Word) (s : State) : Answer :=
  s.firstOrNext .sendFrame (s.acceptTransfer .sendFrame buffer size) s.sendStep

end Sys2Proof.Machine
end

