-- ==== Sys2Proof/Machine/RegisterAccess.lean ====
section
/-! DEFINITION. The six operations of the Register Access Layer (40_register_access.md). -/

namespace Sys2Proof.Machine

/-- An operation with one read transaction: the checks of R126, `BusRead`, and a result computed from the value read. -/
def State.readOperation (s : State) (op : Op) (reg : BitVec 8) (a : Word) (f : Word → Word) : Answer :=
  s.whenIdle <|
    match readTarget reg with
    | .error e => .next (s.raise e)
    | .ok r =>
      let t := (s.startReg op reg a 0).busRead r
      .next (t.ret (f t.seq.tmp))

/-- A read-modify-write (R121, 20_memory.md R63): the checks of R126 and `BusRead` in the first step, `BusWrite` of a word
computed from the value read in the second. The peripheral may step in between. -/
def State.readModifyWrite (s : State) (op : Op) (reg : BitVec 8) (a b : Word) (f : Word → Word) : Answer :=
  match writeTarget reg with
  | .error e => s.whenIdle (.next (s.raise e))
  | .ok r =>
    s.firstOrNext op
      (.next ((s.startReg op reg a b).busRead r).markRead)
      (if s.seq.readDone then .next ((s.busWrite r (f s.seq.tmp)).ret 0) else .fault .badSequence)

/-- `REG_READ r -> v` (R127). -/
def execRegRead (reg : BitVec 8) (s : State) : Answer := s.readOperation .regRead reg 0 id

/-- `REG_WRITE r, v` (R128). -/
def execRegWrite (reg : BitVec 8) (value : Word) (s : State) : Answer :=
  s.whenIdle <|
    match writeTarget reg with
    | .error e => .next (s.raise e)
    | .ok r => .next (((s.startReg .regWrite reg value 0).busWrite r value).ret 0)

/-- `SET_BITS r, m` (R129). -/
def execSetBits (reg : BitVec 8) (mask : Word) (s : State) : Answer :=
  s.readModifyWrite .setBits reg mask 0 (fun v => setMask v mask)

/-- `CLEAR_BITS r, m` (R130). -/
def execClearBits (reg : BitVec 8) (mask : Word) (s : State) : Answer :=
  s.readModifyWrite .clearBits reg mask 0 (fun v => clearMask v mask)

/-- `READ_BITS r, m -> v` (R131). -/
def execReadBits (reg : BitVec 8) (mask : Word) (s : State) : Answer :=
  s.readOperation .readBits reg mask (fun v => readMask v mask)

/-- `WRITE_BITS r, c, s` (R132). -/
def execWriteBits (reg : BitVec 8) (clear set : Word) (s : State) : Answer :=
  s.readModifyWrite .writeBits reg clear set (fun v => writeMask v clear set)

end Sys2Proof.Machine
end

