-- ==== Sys2Proof/Machine/Dispatch.lean ====
section
/-! DEFINITION. One step of an operation: one arm per constructor of `Instr`, each one call of its meaning. When the accessor
is idle this is the step that accepts the operation; while the operation is in progress it is its next step. -/

namespace Sys2Proof.Machine

def exec (i : Instr) (s : State) : Host.Outcome State Fault Refusal :=
  match i with
  | .regRead reg => Sys2Proof.Machine.execRegRead reg s
  | .regWrite reg value => Sys2Proof.Machine.execRegWrite reg value s
  | .setBits reg mask => Sys2Proof.Machine.execSetBits reg mask s
  | .clearBits reg mask => Sys2Proof.Machine.execClearBits reg mask s
  | .readBits reg mask => Sys2Proof.Machine.execReadBits reg mask s
  | .writeBits reg clear set => Sys2Proof.Machine.execWriteBits reg clear set s
  | .parseIpv4 text len => Sys2Proof.Machine.execParseIpv4 text len s
  | .hton16 v => Sys2Proof.Machine.execHton16 v s
  | .hton32 v => Sys2Proof.Machine.execHton32 v s
  | .init => Sys2Proof.Machine.execInit s
  | .recvFrame buffer size => Sys2Proof.Machine.execRecvFrame buffer size s
  | .sendFrame buffer size => Sys2Proof.Machine.execSendFrame buffer size s

end Sys2Proof.Machine
end

