-- ==== Sys2Proof/Machine/Sequencer.lean ====
section
/-! DEFINITION. The accessor's own step: go on with the operation in progress (10_state.md R22), or take the caller's next
action (R45, 70_reset_and_hazards.md R275). -/

namespace Sys2Proof.Machine

/-- Take one command word: an illegal word ends with `Refused(IllegalCommand)` (30_encoding.md R95, 60_exceptions.md R243),
any other is run. -/
def State.takeCommand (s : State) (w : Command) : Answer :=
  match decode w with
  | .illegal _ => .next (s.raise .illegalCommand)
  | .op i => exec i s

/-- The idle accessor: nothing happens while the caller does nothing; a stored byte is the caller's own; a command word is
taken. -/
def State.idleStep (s : State) : Answer :=
  match s.caller with
  | [] => .next s
  | .store a v :: rest => .next ({ s with caller := rest }.callerStore a v)
  | .issue w :: rest => { s with caller := rest }.takeCommand w

/-- One step of the accessor. -/
def State.accessorStep (s : State) : Answer :=
  match s.seq.curOp with
  | some op => exec (s.currentInstr op) s
  | none => s.idleStep

end Sys2Proof.Machine
end

