-- ==== Sys2Proof/Machine/Step.lean ====
section
/-! DEFINITION. One step of the whole machine: whatever the peripheral does first (20_memory.md R76), then one step of the
accessor (10_state.md R23). -/

namespace Sys2Proof.Machine

/-- One step of the machine. -/
def step (s : State) : Host.Outcome State Fault Refusal := s.peripheralMoves.accessorStep

/-- The state with one command word, numbered as the opcode table numbers its bits, where the next step takes it. -/
def State.withFetchWord (s : State) (nbits w : Nat) : State := s.withCommand (Sys2Proof.tableWord nbits w)

end Sys2Proof.Machine
end

