-- ==== Sys2Proof/WellFormed.lean ====
section
/-! DEFINITION. Which operations are well formed: those the accessor does not refuse. Every constructor can be encoded and
decodes again; a well-formed one also passes the three checks of 60_exceptions.md R247 that come after decoding: its
register id names a register (R125), a writing operation does not name a read-only register (R123), and its byte range
lies below the top of host memory (R244). An ill-formed operation still has a meaning: it ends with the outcome of its
first failed check. -/

namespace Sys2Proof

/-- The register id of a register-access operation names one of the fourteen registers (R93, R125). -/
def Instr.namesRegister : Instr → Bool
  | .regRead reg => reg.toNat ≤ 13
  | .regWrite reg _ => reg.toNat ≤ 13
  | .setBits reg _ => reg.toNat ≤ 13
  | .clearBits reg _ => reg.toNat ≤ 13
  | .readBits reg _ => reg.toNat ≤ 13
  | .writeBits reg _ _ => reg.toNat ≤ 13
  | .parseIpv4 _ _ => true
  | .hton16 _ => true
  | .hton32 _ => true
  | .init => true
  | .recvFrame _ _ => true
  | .sendFrame _ _ => true

/-- The ids of the six read-only registers: `STATUS`, `RX_STATUS`, `TX_STATUS`, `RXFIFO_DATA`, `RXFIFO_SIZE`,
`TXFIFO_SIZE` (R31, R123). -/
def readOnlyIds : List Nat := [5, 6, 7, 10, 12, 13]

/-- A writing operation does not name a read-only register (R123). -/
def Instr.mayWrite : Instr → Bool
  | .regRead _ => true
  | .regWrite reg _ => !readOnlyIds.contains reg.toNat
  | .setBits reg _ => !readOnlyIds.contains reg.toNat
  | .clearBits reg _ => !readOnlyIds.contains reg.toNat
  | .readBits _ _ => true
  | .writeBits reg _ _ => !readOnlyIds.contains reg.toNat
  | .parseIpv4 _ _ => true
  | .hton16 _ => true
  | .hton32 _ => true
  | .init => true
  | .recvFrame _ _ => true
  | .sendFrame _ _ => true

/-- The byte range `[a, a + b)` of a text or of a frame buffer ends at or below the top of a host memory of
`2 ^ addrWidth` bytes (R244). -/
def Instr.rangeFits (addrWidth : Nat) : Instr → Bool
  | .regRead _ => true
  | .regWrite _ _ => true
  | .setBits _ _ => true
  | .clearBits _ _ => true
  | .readBits _ _ => true
  | .writeBits _ _ _ => true
  | .parseIpv4 text len => text.toNat + len.toNat ≤ 2 ^ addrWidth
  | .hton16 _ => true
  | .hton32 _ => true
  | .init => true
  | .recvFrame buffer size => buffer.toNat + size.toNat ≤ 2 ^ addrWidth
  | .sendFrame buffer size => buffer.toNat + size.toNat ≤ 2 ^ addrWidth

/-- All three checks. -/
def Instr.wf (addrWidth : Nat) (i : Instr) : Bool :=
  i.namesRegister && i.mayWrite && i.rangeFits addrWidth

end Sys2Proof
end

