-- ==== Sys2Proof/Safety.lean ====
section
/-! DEFINITION. What counts as a legal state and a safe run, in the terms the statements use: the idle accessor, the legal
sequencing states (10_state.md R22, R23), the invariant of the machine, what a refusal and a bus transaction leave behind,
and the two sides of the register block (42_frame_transfer_engine.md R198). -/

namespace Sys2Proof.Machine

/-- No operation is in progress (10_state.md R50, 70_reset_and_hazards.md R274). -/
abbrev State.idle (s : State) : Prop := s.seq.curOp = none

/-- The operations of the Register Access Layer (00_scope.md R5). -/
def registerOps : List Op := [.regRead, .regWrite, .setBits, .clearBits, .readBits, .writeBits]

/-- The operations of the Register Access Layer that write (R123). -/
def writingOps : List Op := [.regWrite, .setBits, .clearBits, .writeBits]

/-- A register id a read-modify-write may name. -/
def namesWritable (id : BitVec 8) : Bool :=
  match writeTarget id with
  | .ok _ => true
  | .error _ => false

/-- The operands of a transfer are latched and its byte range lies below the top of host memory (R178, R188, R244). -/
def Latches.transferLatched (c : Config) (q : Latches) : Bool :=
  q.buf == q.opndA && q.sizeL == q.opndB && q.buf.toNat + q.sizeL.toNat ≤ 2 ^ c.addrWidth

/-- The legal sequencing states (R22, R23): which phase goes with which operation, and that `offset` never exceeds
`size_l`. An operation that ends in the step that accepts it is never in progress. -/
def Latches.legal (c : Config) (q : Latches) : Bool :=
  match q.curOp with
  | none => q.phase == .idle
  | some .setBits => q.phase == .idle && q.readDone && namesWritable q.opndReg
  | some .clearBits => q.phase == .idle && q.readDone && namesWritable q.opndReg
  | some .writeBits => q.phase == .idle && q.readDone && namesWritable q.opndReg
  | some .init => q.phase == .idle
  | some .recvFrame =>
    q.transferLatched c &&
      match q.phase with
      | .configuring => q.subStep == 0 || q.subStep == 1
      | .waitingForData => true
      | .draining => q.offset.toNat ≤ q.sizeL.toNat
      | .done => q.offset == q.sizeL
      | .idle => false
      | .filling => false
      | .drainWait => false
  | some .sendFrame =>
    q.transferLatched c &&
      match q.phase with
      | .configuring => q.subStep == 0 || q.subStep == 1
      | .filling => q.offset.toNat ≤ q.sizeL.toNat
      | .drainWait => q.offset == q.sizeL
      | .done => q.offset == q.sizeL
      | .idle => false
      | .waitingForData => false
      | .draining => false
  | some .regRead => false
  | some .regWrite => false
  | some .readBits => false
  | some .parseIpv4 => false
  | some .hton16 => false
  | some .hton32 => false

/-- A poll loop has never issued more reads than `POLL_LIMIT` (R177, R184). -/
def Latches.pollsWithin (c : Config) (q : Latches) : Bool :=
  match c.pollLimit with
  | none => true
  | some n =>
    match q.phase with
    | .waitingForData => q.polls ≤ n
    | .drainWait => q.polls ≤ n
    | .draining => q.polls < n
    | .idle => true
    | .configuring => true
    | .filling => true
    | .done => true

/-- The transaction does not go against the register's access right in the way the accessor refuses (R123). -/
def BusEvent.allowed : BusEvent → Bool
  | .read _ _ => true
  | .write r _ => writable r

/-- A result word carries a code of R241, and a value only with `Ok` (R96). -/
def resultLegal (w : ResultWord) : Bool :=
  (w.extractLsb' 32 8).toNat ≤ 7 && (w.extractLsb' 32 8 == 0 || w.extractLsb' 0 32 == 0)

/-- The FIFOs of the reference device hold at most their depths (R225). -/
def Device.fifosBounded (c : Config) (d : Device) : Bool :=
  d.rxFifo.length ≤ c.rxDepth && d.txFifo.length ≤ c.txDepth

/-- The invariant of the machine: host memory is canonical and lies below `2 ^ AW`, the sequencing state is legal, the
poll count is within the limit and the limit is not 0, every transaction so far was allowed, every result word so far is
legal, and the FIFOs are within their depths. -/
structure State.Inv (s : State) : Prop where
  memCanonical : Memory.wf s.mem = true
  memBelow : Memory.below (2 ^ s.cfg.addrWidth) s.mem = true
  limitPositive : s.cfg.pollLimit ≠ some 0
  sequencing : s.seq.legal s.cfg = true
  polls : s.seq.pollsWithin s.cfg = true
  traceAllowed : s.busTrace.all BusEvent.allowed = true
  resultsLegal : s.results.all resultLegal = true
  fifos : s.dev.fifosBounded s.cfg = true

/-- Every byte of host memory reads as before. -/
def sameMemory (s t : State) : Prop := ∀ a, Memory.read t.mem a = Memory.read s.mem a

/-- What no step of an operation changes: the configuration, the caller's further actions, which environment answers, and
the reference device's schedule. -/
def sameSetting (s t : State) : Prop :=
  t.cfg = s.cfg ∧ t.caller = s.caller ∧ t.environment = s.environment ∧ t.schedule = s.schedule

/-- No bus transaction happened: the trace, the register block and the peripheral are as before. -/
def noTransaction (s t : State) : Prop :=
  t.busTrace = s.busTrace ∧ t.regs = s.regs ∧ t.dev = s.dev ∧ t.answers = s.answers ∧ t.draws = s.draws

/-- One read transaction of `r` happened and no other: the trace has one more entry, the register block is as before, and
the peripheral changed as a read of `r` changes it. -/
def oneRead (r : Reg) (s t : State) : Prop :=
  t.busTrace = s.busTrace ++ [.read r (s.readValue r)] ∧ t.regs = s.regs ∧
    t.dev = (s.afterRead r).dev ∧ t.answers = (s.afterRead r).answers ∧ t.draws = (s.afterRead r).draws

/-- One write transaction of `v` to `r` happened and no other: the trace has one more entry, a storage register holds the
new value, and the peripheral changed as a write of `r` changes it. -/
def oneWrite (r : Reg) (v : Word) (s t : State) : Prop :=
  t.busTrace = s.busTrace ++ [.write r v] ∧ t.regs = s.regs.write r v ∧
    t.dev = s.deviceAfterWrite r v ∧ t.answers = s.answers ∧ t.draws = s.draws

/-- The operation ended with `e` and the value `v`: the accessor is idle and the result word is the last one returned. -/
def endedWith (e : Ending) (v : Word) (s t : State) : Prop :=
  t.seq.curOp = none ∧ t.seq.phase = .idle ∧ t.results = s.results ++ [e.code ++ v]

/-- The latches that only the transfers write (10_state.md R21) are as before. -/
def sameTransferLatches (s t : State) : Prop :=
  t.seq.buf = s.seq.buf ∧ t.seq.sizeL = s.seq.sizeL ∧ t.seq.offset = s.seq.offset ∧ t.seq.polls = s.seq.polls

/-- The operation was refused with `e`: it ended at once and left everything else as it was (R240, R247). -/
def refusedWith (e : Ending) (s t : State) : Prop :=
  endedWith e 0 s t ∧ noTransaction s t ∧ sameMemory s t ∧ sameSetting s t ∧ sameTransferLatches s t

/-- The configured literals are the ones the spec gives (30_encoding.md R98): the premise of every statement that speaks of a
bit or a word by its number. It holds right after reset, and no step changes the configuration (00_scope.md R16 asks that a
literal can be corrected in one place, so no meaning has it built in). -/
abbrev State.specLiterals (s : State) : Prop := s.cfg.literals = literals

/-- The transaction belongs to the transmit side (R198). -/
def BusEvent.transmitSide (l : Literals) : BusEvent → Bool
  | .read r _ => r == .txsize || r == .txfifoData || r == .txfifoSize
  | .write r v => r == .txsize || r == .txfifoData || r == .txfifoSize || (r == .ctrl && v == l.ctrlTxStart)

/-- The transaction belongs to the receive side (R198). -/
def BusEvent.receiveSide (l : Literals) : BusEvent → Bool
  | .read r _ => r == .rxsize || r == .rxStatus || r == .rxfifoData || r == .rxfifoSize
  | .write r v => r == .rxsize || r == .rxStatus || r == .rxfifoData || r == .rxfifoSize ||
      (r == .ctrl && v == l.ctrlRxStart)

/-- The number a string of digit characters stands for, with no bound (R99). -/
def decimal (ds : List Byte) : Nat := ds.foldl (fun n c => n * 10 + digitValue c) 0

/-- `k` steps of the machine. -/
def run (k : Nat) (s : State) : Answer := Host.Core.run Sys2Proof.core k s

end Sys2Proof.Machine
end

