-- ==== Sys2Proof/Certificates/Slice0/Obligations.lean ====
section
/-! DEFINITION. The statements for the provers, each a proposition about the machine, with the rules of the spec it
formalises. `exec i s = .next t` is one step of operation `i`; `oneRead`, `oneWrite`, `noTransaction`, `sameMemory`,
`sameSetting`, `endedWith` and `refusedWith` (Sys2Proof/Safety.lean) say what a step leaves behind. `s.specLiterals` says that
the configured literals are those of 30_encoding.md R98; statements that name a bit or a word by its number take it as a
premise, since the literals stand in the configuration record (00_scope.md R16). -/

open Sys2Proof Sys2Proof.Machine

/-! ## The operation word -/

/-- 30_encoding.md R91, R92, R94: the decoder reads back every operation from its word, with every operand at every value. -/
def Obligations.DecodeOfEncode : Prop :=
  ∀ i : Instr, decode (encode i) = .op i

/-- R92, R94, R95: a word that decodes has only the bits its operation gives it, so that each legal word has one meaning. -/
def Obligations.EncodeOfDecode : Prop :=
  ∀ (w : Command) (i : Instr), decode w = .op i → encode i = w

/-- R94, R95: a word decodes to an operation exactly when it selects that operation's row of the map, `w & mask == match`;
a word that is illegal selects no row; no word selects two rows. The map is the spec's own (decisions D2, D28). -/
def Obligations.DecodeFollowsOperationMap : Prop :=
  (∀ (w : Command) (i : Instr), decode w = .op i → ∃ r ∈ opMap, r.selects w = true ∧ r.op = i.op) ∧
    (∀ (w : Command) (r : MapRow), r ∈ opMap → r.selects w = true → ∃ i, decode w = .op i ∧ i.op = r.op) ∧
    (∀ (w : Command) (why : IllegalReason), decode w = .illegal why → ∀ r ∈ opMap, r.selects w = false) ∧
    (∀ (w : Command) (r q : MapRow), r ∈ opMap → q ∈ opMap → r.selects w = true → q.selects w = true → r = q)

/-- 95_test_vectors.md V12 to V19, V32, V33, V40, V50, V60, V86, V88, V89, V98, V99: words of the spec and what they are. -/
def Obligations.WordsOfTheVectorsDecode : Prop :=
  decode 0x10080000000000000000 = .op (.regRead 8) ∧
    decode 0x11080000004000000000 = .op (.regWrite 8 0x40) ∧
    decode 0x12080000000F00000000 = .op (.setBits 8 0x0F) ∧
    decode 0x1308000000F000000000 = .op (.clearBits 8 0xF0) ∧
    decode 0x14060000000100000000 = .op (.readBits 6 0x1) ∧
    decode 0x1508000000FF00000012 = .op (.writeBits 8 0xFF 0x12) ∧
    decode 0x15090000000F000000F0 = .op (.writeBits 9 0x0F 0xF0) ∧
    decode 0x12090000000000000000 = .op (.setBits 9 0) ∧
    decode 0x20000000300000000008 = .op (.parseIpv4 0x3000 8) ∧
    decode 0x210000001F9000000000 = .op (.hton16 0x1F90) ∧
    decode 0x22007F00000100000000 = .op (.hton32 0x7F000001) ∧
    decode 0x30000000000000000000 = .op .init ∧
    decode 0x31000000100000000004 = .op (.recvFrame 0x1000 4) ∧
    decode 0x32000000200000000003 = .op (.sendFrame 0x2000 3) ∧
    decode 0x16080000000000000000 = .illegal .unknownOp ∧
    decode 0x10080000000000000001 = .illegal .mustBeZero ∧
    decode 0x20010000300000000008 = .illegal .mustBeZero ∧
    decode 0x210000011F9000000000 = .illegal .mustBeZero

/-- R241: the codes of the outcomes, as they stand in bits 39:32 of the result word, above the value (R96). The codes are
the spec's own (decision D19). -/
def Obligations.ResultWordCarriesCodeAndValue : Prop :=
  ∀ (e : Ending) (v : Word),
    (resultWord e v).extractLsb' 0 32 = v ∧
      (resultWord e v).extractLsb' 32 8 =
        (match e with
          | .ok => 0
          | .illegalCommand => 1
          | .reservedAccess => 2
          | .accessViolation => 3
          | .badRange => 4
          | .timeoutWaitingForData => 5
          | .timeoutDraining => 6
          | .timeoutDrainWait => 7)

/-! ## The step -/

/-- R45, R91: on an idle accessor a command word that decodes is taken from the caller and run in the same step, after
whatever the peripheral does first. The state the operation runs in is the model's: log entries 1, 8 and 9. -/
def Obligations.StepRunsDecodedOperation : Prop :=
  ∀ (s : State) (w : Command) (rest : List CallerAction) (i : Instr),
    s.idle → s.caller = .issue w :: rest → decode w = .op i →
      step s = exec i { s.peripheralMoves with caller := rest }

/-- R22, R23: while an operation is in progress the step is its next step, with the operands it was started with. That the
peripheral's own steps come just before the accessor's, in the same step of the machine, is the model's: log entry 9. -/
def Obligations.StepContinuesOperationInProgress : Prop :=
  ∀ (s : State) (op : Op), s.seq.curOp = some op →
    step s = exec (Instr.ofFields op s.seq.opndReg s.seq.opndA s.seq.opndB) s.peripheralMoves

/-- R45, R252: operation n+1 starts only after operation n has ended: no step of an operation in progress takes anything
from the caller, and no next step leaves a different operation in progress (the spec's decision D20). -/
def Obligations.OperationsAreSerial : Prop :=
  ∀ (s t : State) (op : Op), s.seq.curOp = some op → step s = .next t →
    t.caller = s.caller ∧ (t.seq.curOp = some op ∨ t.seq.curOp = none)

/-- R275 gives the caller the command interface and host memory between operations. That an idle accessor whose caller does
nothing only lets the peripheral move is log entry 1 (DESIGN CHOICE); that the caller stores one byte at a time, in a step of
its own that changes that byte and no other, is log entry 20 (DEDUCED); the device steps before it are log entry 9. -/
def Obligations.IdleAccessorWaitsForCaller : Prop :=
  (∀ s : State, s.idle → s.caller = [] → step s = .next s.peripheralMoves) ∧
    (∀ (s : State) (a : Nat) (v : Byte) (rest : List CallerAction),
      s.idle → s.caller = .store a v :: rest → a < 2 ^ s.cfg.addrWidth → Memory.wf s.mem = true →
        ∃ t, step s = .next t ∧ t.idle ∧ t.caller = rest ∧ t.busTrace = s.busTrace ∧ t.results = s.results ∧
          t.regs = s.regs ∧ ∀ x, Memory.read t.mem x = if x = a then v else Memory.read s.mem x)

/-- R76, R222, R230: what the peripheral does before an accessor step never touches the accessor, the register block's
stored values, host memory, the caller or the traces. That these moves come before the accessor's step and are chosen by a schedule
is log entry 9, and that the unconstrained environment makes none (all it does stands in its answers) is log entry 8, both
DESIGN CHOICE: R222 lets the oracle take any step it allows. -/
def Obligations.PeripheralMovesTouchOnlyTheDevice : Prop :=
  ∀ s : State,
    s.peripheralMoves.seq = s.seq ∧ s.peripheralMoves.regs = s.regs ∧ s.peripheralMoves.mem = s.mem ∧
      s.peripheralMoves.caller = s.caller ∧ s.peripheralMoves.busTrace = s.busTrace ∧
      s.peripheralMoves.results = s.results ∧ s.peripheralMoves.cfg = s.cfg ∧
      s.peripheralMoves.environment = s.environment ∧ s.peripheralMoves.answers = s.answers ∧
      (s.environment = .unconstrained → s.peripheralMoves = s)

/-- R243 (and R95): a word that selects no row of the map is refused with `IllegalCommand` before any transaction, and so
is a register-access operation that names an id from 16 to 255 (the spec's decision D28). The first holds in every
environment; the device steps before it are log entry 9. -/
def Obligations.IllegalCommandIsRefused : Prop :=
  (∀ (s : State) (w : Command) (rest : List CallerAction),
      s.idle → s.caller = .issue w :: rest → (∀ r ∈ opMap, r.selects w = false) →
        ∃ t, step s = .next t ∧ refusedWith .illegalCommand { s.peripheralMoves with caller := rest } t) ∧
    (∀ (s : State) (op : Op) (reg : BitVec 8) (a b : Word),
      s.idle → op ∈ registerOps → 16 ≤ reg.toNat →
        ∃ t, exec (Instr.ofFields op reg a b) s = .next t ∧ refusedWith .illegalCommand s t)

/-! ## Register Access Layer -/

/-- R127, R131, R121: `REG_READ` and `READ_BITS` of a named register complete with one read, and return the value read,
masked for `READ_BITS`; nothing else changes. That they do so in the step that accepts them is log entry 11 (DEDUCED). -/
def Obligations.ReadOperationsComplete : Prop :=
  ∀ (s : State) (reg : BitVec 8) (r : Reg) (m : Word), s.idle → regOfId reg = some r →
    (∃ t, exec (.regRead reg) s = .next t ∧ endedWith .ok (s.readValue r) s t ∧ oneRead r s t ∧ sameMemory s t ∧
      sameSetting s t ∧ sameTransferLatches s t) ∧
    (∃ t, exec (.readBits reg m) s = .next t ∧ endedWith .ok (s.readValue r &&& m) s t ∧ oneRead r s t ∧
      sameMemory s t ∧ sameSetting s t ∧ sameTransferLatches s t)

/-- R128, R121: `REG_WRITE` of a register that is not read-only completes with one write of the operand, unchanged. That it
does so in the step that accepts it is log entry 11 (DEDUCED). -/
def Obligations.RegWriteCompletes : Prop :=
  ∀ (s : State) (reg : BitVec 8) (r : Reg) (v : Word), s.idle → regOfId reg = some r → writable r = true →
    ∃ t, exec (.regWrite reg v) s = .next t ∧ endedWith .ok 0 s t ∧ oneWrite r v s t ∧ sameMemory s t ∧
      sameSetting s t ∧ sameTransferLatches s t

/-- R121, R129, R130, R132, R63: the first step of `SET_BITS`, `CLEAR_BITS` and `WRITE_BITS` on a register that is not
read-only is the read, whatever the masks are (the spec's decision D10); the value read and the operands are latched and the
operation goes on. The split into two steps is log entry 11 (DEDUCED), and the latch `readDone` that tells them apart is the
model's own, log entry 12 (DESIGN CHOICE). -/
def Obligations.ReadModifyWriteReadsFirst : Prop :=
  ∀ (s : State) (op : Op) (reg : BitVec 8) (r : Reg) (a b : Word),
    s.idle → op ∈ [Op.setBits, Op.clearBits, Op.writeBits] → regOfId reg = some r → writable r = true →
      ∃ t, exec (Instr.ofFields op reg a b) s = .next t ∧ oneRead r s t ∧ t.seq.curOp = some op ∧
        t.seq.tmp = s.readValue r ∧ t.seq.readDone = true ∧
        Instr.ofFields op t.seq.opndReg t.seq.opndA t.seq.opndB = Instr.ofFields op reg a b ∧
        t.results = s.results ∧ sameMemory s t ∧ sameSetting s t ∧ sameTransferLatches s t

/-- R122, R129, R130, R132: the second step of a read-modify-write is one write of `tmp | m`, `tmp & ~m` or
`(tmp & ~c) | s`, `tmp` being the value the first step read, and the operation ends with `Ok` (the last formula, with a set
mask outside the clear mask: the spec's decision D10). That this is a step of its own is log entry 11 (DEDUCED), and the latch
`readDone` that marks it is the model's own, log entry 12 (DESIGN CHOICE). -/
def Obligations.ReadModifyWriteWritesSecond : Prop :=
  ∀ (s : State) (reg : BitVec 8) (r : Reg) (m c v : Word),
    s.seq.readDone = true → regOfId reg = some r → writable r = true →
      (s.seq.curOp = some .setBits → ∃ t, exec (.setBits reg m) s = .next t ∧ endedWith .ok 0 s t ∧
        oneWrite r (s.seq.tmp ||| m) s t ∧ sameMemory s t ∧ sameSetting s t ∧
        sameTransferLatches s t) ∧
      (s.seq.curOp = some .clearBits → ∃ t, exec (.clearBits reg m) s = .next t ∧ endedWith .ok 0 s t ∧
        oneWrite r (s.seq.tmp &&& ~~~m) s t ∧ sameMemory s t ∧ sameSetting s t ∧
        sameTransferLatches s t) ∧
      (s.seq.curOp = some .writeBits → ∃ t, exec (.writeBits reg c v) s = .next t ∧ endedWith .ok 0 s t ∧
        oneWrite r ((s.seq.tmp &&& ~~~c) ||| v) s t ∧ sameMemory s t ∧ sameSetting s t ∧
        sameTransferLatches s t)

/-- R63, R132, R281: in every environment a whole `WRITE_BITS` on a storage register, issued to an idle accessor, is one read
and one write, and replaces the stored value by `(stored & ~c) | s` (the formula: the spec's decision D10; that a storage
register reads back what was stored: D21). That this takes two steps is log entry 11 (DEDUCED). -/
def Obligations.WriteBitsReplacesStoredBits : Prop :=
  ∀ (s : State) (reg : BitVec 8) (r : Reg) (c v old : Word) (rest : List CallerAction),
    s.idle → regOfId reg = some r → s.regs.read r = some old →
      s.caller = .issue (encode (.writeBits reg c v)) :: rest →
        ∃ t, run 2 s = .next t ∧ t.idle ∧ t.caller = rest ∧
          t.busTrace = s.busTrace ++ [.read r old, .write r ((old &&& ~~~c) ||| v)] ∧
          t.regs.read r = some ((old &&& ~~~c) ||| v) ∧ (∀ q, q ≠ r → t.regs.read q = s.regs.read q) ∧
          t.results = s.results ++ [0x0000000000] ∧ sameMemory s t

/-- R125: a register-access operation that names a reserved gap ends with `ReservedAccess`, one that names an id from 16
to 255 with `IllegalCommand`, neither with any transaction (the spec's decision D8). -/
def Obligations.ReservedAndUnknownRegistersAreRefused : Prop :=
  ∀ (s : State) (op : Op) (reg : BitVec 8) (a b : Word), s.idle → op ∈ registerOps →
    ((reg = 14 ∨ reg = 15) →
      ∃ t, exec (Instr.ofFields op reg a b) s = .next t ∧ refusedWith .reservedAccess s t) ∧
    (16 ≤ reg.toNat →
      ∃ t, exec (Instr.ofFields op reg a b) s = .next t ∧ refusedWith .illegalCommand s t)

/-- R123: a writing operation on `STATUS`, `RX_STATUS`, `TX_STATUS`, `RXFIFO_DATA`, `RXFIFO_SIZE` or `TXFIFO_SIZE` ends
with `AccessViolation` and issues no transaction, not even the read half (the spec's decision D8). -/
def Obligations.WritesToReadOnlyRegistersAreRefused : Prop :=
  ∀ (s : State) (op : Op) (reg : BitVec 8) (r : Reg) (a b : Word), s.idle → op ∈ writingOps →
    regOfId reg = some r →
    r ∈ [Reg.status, Reg.rxStatus, Reg.txStatus, Reg.rxfifoData, Reg.rxfifoSize, Reg.txfifoSize] →
      ∃ t, exec (Instr.ofFields op reg a b) s = .next t ∧ refusedWith .accessViolation s t

/-- R124, R12 (`draw`): in the unconstrained environment a read of a write-only register is issued and, where the read
script says nothing, returns the next free value, which no later read returns by rule: the draw counter moves on (the
spec's decision D7; the counter is the model's, log entry 6). -/
def Obligations.WriteOnlyReadsAreFreshDraws : Prop :=
  ∀ (s : State) (reg : BitVec 8) (r : Reg), s.idle → s.environment = .unconstrained → regOfId reg = some r →
    (r = .ctrl ∨ r = .txfifoData) → scripted s.answers r = none →
      ∃ t, exec (.regRead reg) s = .next t ∧ endedWith .ok (Config.draw s.draws) s t ∧
        t.busTrace = s.busTrace ++ [.read r (Config.draw s.draws)] ∧ t.draws = s.draws + 1 ∧ t.regs = s.regs ∧
        t.answers = s.answers ∧ t.dev = s.dev ∧ sameMemory s t ∧ sameSetting s t

/-- R219: a storage register returns on a read the value last written to it; a read, a write of another register, and
whatever the peripheral does on its own leave it as it is (the spec's decision D21). -/
def Obligations.StorageRegistersReturnLastWritten : Prop :=
  ∀ (s : State) (r : Reg) (v : Word), r ∈ [Reg.rxip, Reg.txip, Reg.rxport, Reg.txport, Reg.rxsize, Reg.txsize] →
    (s.busWrite r v).readValue r = v ∧
      (∀ (q : Reg) (x : Word), q ≠ r → (s.busWrite q x).readValue r = s.readValue r) ∧
      (∀ q : Reg, (s.busRead q).readValue r = s.readValue r) ∧
      s.peripheralMoves.readValue r = s.readValue r

/-- R135, which the spec derives from R122, for every width: the algebra of the mask functions. -/
def Obligations.MaskFunctionLaws : Prop :=
  ∀ (w : Nat) (r m c s : BitVec w),
    readMask (setMask r m) m = m ∧ readMask (clearMask r m) m = 0 ∧
      setMask (setMask r m) m = setMask r m ∧ clearMask (clearMask r m) m = clearMask r m ∧
      writeMask r c s = setMask (clearMask r c) s ∧
      (s &&& ~~~c = 0 → readMask (writeMask r c s) c = s &&& c) ∧
      (s &&& ~~~c = 0 → readMask (writeMask r c s) (~~~c) = r &&& ~~~c)

/-- R247, R126: an idle accessor reports the first failed check: the register id, then the access right, then the byte
range; a refused operation leaves no trace. An operation that passes all three is not refused (the spec's decision
D28). -/
def Obligations.FirstFailedCheckIsReported : Prop :=
  ∀ (s : State) (i : Instr), s.idle →
    (i.namesRegister = false → ∃ t e, exec i s = .next t ∧ refusedWith e s t ∧
      (e = .reservedAccess ∨ e = .illegalCommand)) ∧
    (i.namesRegister = true → i.mayWrite = false → ∃ t, exec i s = .next t ∧ refusedWith .accessViolation s t) ∧
    (i.namesRegister = true → i.mayWrite = true → i.rangeFits s.cfg.addrWidth = false →
      ∃ t, exec i s = .next t ∧ refusedWith .badRange s t) ∧
    (i.wf s.cfg.addrWidth = true → ∃ t, exec i s = .next t ∧
      (t.results = s.results ∨ ∃ v, t.results = s.results ++ [resultWord .ok v]))

/-- R244: `PARSE_IPV4`, `RECV_FRAME` and `SEND_FRAME` whose byte range would pass the top of host memory are refused with
`BadRange`; an empty range is accepted at every address below the top (the spec's decision D29): the empty text ends with
`Ok` and the value 0 (D12), and a transfer of no bytes goes to `Configuring`. That the acceptance is a step of its own, without
a transaction, is log entry 11 (DEDUCED). -/
def Obligations.RangesPastTheTopAreRefused : Prop :=
  (∀ (s : State) (op : Op) (a b : Word), s.idle → op ∈ [Op.parseIpv4, Op.recvFrame, Op.sendFrame] →
      2 ^ s.cfg.addrWidth < a.toNat + b.toNat →
        ∃ t, exec (Instr.ofFields op 0 a b) s = .next t ∧ refusedWith .badRange s t) ∧
    (∀ (s : State) (op : Op) (a : Word), s.idle → op ∈ [Op.parseIpv4, Op.recvFrame, Op.sendFrame] →
      a.toNat ≤ 2 ^ s.cfg.addrWidth - 1 →
        ∃ t, exec (Instr.ofFields op 0 a 0) s = .next t ∧ noTransaction s t ∧ sameMemory s t ∧ sameSetting s t ∧
          (op = .parseIpv4 → endedWith .ok 0 s t) ∧
          (op ≠ .parseIpv4 → t.seq.curOp = some op ∧ t.seq.phase = .configuring ∧ t.seq.buf = a ∧ t.seq.sizeL = 0 ∧
            t.results = s.results))

/-! ## Address/Port Encoding -/

/-- R150, R151: `PARSE_IPV4` of a text whose range lies below the top of host memory completes with the value of the text,
reading nothing but that text, and changes nothing but the accessor (the text as an address and a length: the spec's decision
D12). That it reads the whole text in the step that accepts it is log entry 11 (DEDUCED). -/
def Obligations.ParseIpv4Completes : Prop :=
  ∀ (s : State) (text len : Word), s.idle → text.toNat + len.toNat ≤ 2 ^ s.cfg.addrWidth →
    ∃ t, exec (.parseIpv4 text len) s = .next t ∧
      endedWith .ok (parseIpv4 s.cfg.octetWidth
        ((List.range len.toNat).map (fun i => Memory.read s.mem (text.toNat + i)))).2 s t ∧
      noTransaction s t ∧ sameMemory s t ∧ sameSetting s t ∧ sameTransferLatches s t

/-- R157, R158, R150: `HTON16` and `HTON32` complete with the bytes of the operand in reverse order, and change nothing but the
accessor. That they do so in the step that accepts them is log entry 11 (DEDUCED). -/
def Obligations.ByteSwapsComplete : Prop :=
  ∀ s : State, s.idle →
    (∀ v : Half, ∃ t, exec (.hton16 v) s = .next t ∧
      endedWith .ok (((v <<< 8) ||| (v >>> 8)).setWidth 32) s t ∧
      noTransaction s t ∧ sameMemory s t ∧ sameSetting s t ∧ sameTransferLatches s t) ∧
    (∀ v : Word, ∃ t, exec (.hton32 v) s = .next t ∧
      endedWith .ok (((v &&& 0xFF) <<< 24) ||| ((v &&& 0xFF00) <<< 8) ||| ((v >>> 8) &&& 0xFF00) ||| (v >>> 24)) s t ∧
      noTransaction s t ∧ sameMemory s t ∧ sameSetting s t ∧ sameTransferLatches s t)

/-- R161, which the spec derives from R157 and R158: `HTON16` and `HTON32` are involutions, and so bijections. -/
def Obligations.ByteSwapsAreInvolutions : Prop :=
  (∀ v : Half, hton16 (hton16 v) = v) ∧ (∀ v : Word, hton32 (hton32 v) = v)

/-- R162: a text of four octets in [0, 255] without leading zeros parses with the tag `Parsed`, and formatting its value
gives the text back (`format_ipv4` is the spec's decision D30). -/
def Obligations.ParseThenFormatRoundTrips : Prop :=
  ∀ o1 o2 o3 o4 : Byte,
    let text := numeral o1 ++ charDot :: (numeral o2 ++ charDot :: (numeral o3 ++ charDot :: numeral o4))
    (parseIpv4 8 text).1 = .parsed ∧ formatIpv4 (parseIpv4 8 text).2 = text

/-- R152, R155, R156: four octets written in digits, however many each (an empty octet has the value 0), parse with the
tag `Parsed` to their decimal values modulo 256, the first in bits 31:24 and the last in bits 7:0 (octets above 255 and
empty octets: the spec's decision D12). -/
def Obligations.OctetsArePackedModulo256 : Prop :=
  ∀ d1 d2 d3 d4 : List Byte,
    d1.all isDigit = true → d2.all isDigit = true → d3.all isDigit = true → d4.all isDigit = true →
      parseIpv4 8 (d1 ++ charDot :: (d2 ++ charDot :: (d3 ++ charDot :: d4))) =
        (.parsed, ((BitVec.ofNat 8 (decimal d1) ++ BitVec.ofNat 8 (decimal d2)) ++ BitVec.ofNat 8 (decimal d3)) ++
          BitVec.ofNat 8 (decimal d4))

/-- R151, R153: the tag tells the two failures apart: an invalid character anywhere gives `InvalidChar` whatever the
number of dots; without one, the number of octets is the number of dots plus one, and any number but four gives
`WrongCount`. Both give the value 0 (the spec's decision D12). -/
def Obligations.ParseFailuresGiveZeroAndTag : Prop :=
  ∀ (width : Nat) (text : List Byte),
    (text.any (fun c => !(c == charDot || isDigit c)) = true → parseIpv4 width text = (.invalidChar, 0)) ∧
    (text.all (fun c => c == charDot || isDigit c) = true → text.count charDot ≠ 3 →
      parseIpv4 width text = (.wrongCount, 0)) ∧
    (text.all (fun c => c == charDot || isDigit c) = true → text.count charDot = 3 →
      (parseIpv4 width text).1 = .parsed)

/-- R154: a text that fails to parse and the text "0.0.0.0" give the same result word, `Ok` with value 0; and as a
configured address either one makes `INIT` write 0 to the register, without any report. That the accepting step of `INIT`
writes `RXIP` is log entry 11 (DEDUCED); that its next write is that of `TXIP` is the spec's decision D14. -/
def Obligations.FailedParseLooksLikeZeroAddress : Prop :=
  let ambiguous (width : Nat) (text : List Byte) : Prop :=
    (parseIpv4 width text).1 ≠ .parsed ∨ text = [0x30, 0x2E, 0x30, 0x2E, 0x30, 0x2E, 0x30]
  (∀ (s : State) (text len : Word), s.idle → text.toNat + len.toNat ≤ 2 ^ s.cfg.addrWidth →
    ambiguous s.cfg.octetWidth (Memory.bytes s.mem text.toNat len.toNat) →
      ∃ t, exec (.parseIpv4 text len) s = .next t ∧ endedWith .ok 0 s t) ∧
  (∀ s : State, s.idle → ambiguous s.cfg.octetWidth s.cfg.rxIp →
    ∃ t, exec .init s = .next t ∧ oneWrite .rxip 0 s t ∧ t.seq.curOp = some .init ∧ t.results = s.results) ∧
  (∀ s : State, s.seq.curOp = some .init → s.seq.subStep = 1 → ambiguous s.cfg.octetWidth s.cfg.txIp →
    ∃ t, exec .init s = .next t ∧ oneWrite .txip 0 s t ∧ t.seq.curOp = some .init ∧ t.results = s.results)

/-! ## Frame Transfer Engine -/

/-- R171, R174, R175: each step of `INIT` in progress completes: five writes in order, the last of `CTRL` with the plain
word 1, then `Ok` (the spec's decisions D14 and D9). That the accepting step issues the first write and leaves the phase
is the model's reading, log entries 11 and 13. -/
def Obligations.InitStepsComplete : Prop :=
  ∀ s : State,
    (s.idle → ∃ t, exec .init s = .next t ∧ oneWrite .rxip (encodeIp s.cfg.octetWidth s.cfg.rxIp) s t ∧
      t.seq.curOp = some .init ∧ t.seq.subStep = 1 ∧ t.seq.phase = s.seq.phase ∧ t.results = s.results ∧
      sameMemory s t ∧ sameSetting s t ∧ sameTransferLatches s t) ∧
    (s.seq.curOp = some .init → s.seq.subStep = 1 → ∃ t, exec .init s = .next t ∧
      oneWrite .txip (encodeIp s.cfg.octetWidth s.cfg.txIp) s t ∧ t.seq = { s.seq with subStep := 2 } ∧
      t.results = s.results ∧ sameMemory s t ∧ sameSetting s t) ∧
    (s.seq.curOp = some .init → s.seq.subStep = 2 → ∃ t, exec .init s = .next t ∧
      oneWrite .rxport (encodePort s.cfg.rxPort) s t ∧ t.seq = { s.seq with subStep := 3 } ∧
      t.results = s.results ∧ sameMemory s t ∧ sameSetting s t) ∧
    (s.seq.curOp = some .init → s.seq.subStep = 3 → ∃ t, exec .init s = .next t ∧
      oneWrite .txport (encodePort s.cfg.txPort) s t ∧ t.seq = { s.seq with subStep := 4 } ∧
      t.results = s.results ∧ sameMemory s t ∧ sameSetting s t) ∧
    (s.specLiterals → s.seq.curOp = some .init → s.seq.subStep = 4 → ∃ t, exec .init s = .next t ∧
      oneWrite .ctrl 0x00000001 s t ∧ t.seq = { s.seq with subStep := 5 } ∧
      t.results = s.results ∧ sameMemory s t ∧ sameSetting s t) ∧
    (s.seq.curOp = some .init → s.seq.subStep = 5 → ∃ t, exec .init s = .next t ∧ endedWith .ok 0 s t ∧
      noTransaction s t ∧ sameMemory s t ∧ sameSetting s t)

/-- R171, R176: in every environment and for every configuration, an `INIT` issued to an idle accessor ends after six
steps with exactly five writes and `Ok`, whether or not the configured texts parse, and leaves `RXSIZE` and `TXSIZE`
(the spec's decisions D14 and D9; six steps: log entry 11). -/
def Obligations.InitIssuesFiveWritesAndEnds : Prop :=
  ∀ (s : State) (rest : List CallerAction), s.specLiterals → s.idle → s.caller = .issue (encode .init) :: rest →
    ∃ t, run 6 s = .next t ∧ t.idle ∧ t.caller = rest ∧ t.results = s.results ++ [0x0000000000] ∧
      t.busTrace = s.busTrace ++
        [.write .rxip (hton32 (parseIpv4 s.cfg.octetWidth s.cfg.rxIp).2),
          .write .txip (hton32 (parseIpv4 s.cfg.octetWidth s.cfg.txIp).2),
          .write .rxport ((hton16 s.cfg.rxPort).setWidth 32),
          .write .txport ((hton16 s.cfg.txPort).setWidth 32),
          .write .ctrl 0x00000001] ∧
      t.regs.rxip = hton32 (parseIpv4 s.cfg.octetWidth s.cfg.rxIp).2 ∧
      t.regs.txip = hton32 (parseIpv4 s.cfg.octetWidth s.cfg.txIp).2 ∧
      t.regs.rxport = (hton16 s.cfg.rxPort).setWidth 32 ∧ t.regs.txport = (hton16 s.cfg.txPort).setWidth 32 ∧
      t.regs.rxsize = s.regs.rxsize ∧ t.regs.txsize = s.regs.txsize ∧ sameMemory s t

/-- R178, R188, R197: a transfer whose range lies below the top of host memory is accepted: its operands are latched, its
phase is `Configuring`, and no transaction happens. -/
def Obligations.TransfersAreAccepted : Prop :=
  ∀ (s : State) (op : Op) (a b : Word), s.idle → op ∈ [Op.recvFrame, Op.sendFrame] →
    a.toNat + b.toNat ≤ 2 ^ s.cfg.addrWidth →
      ∃ t, exec (Instr.ofFields op 0 a b) s = .next t ∧ t.seq.curOp = some op ∧ t.seq.phase = .configuring ∧
        t.seq.subStep = 0 ∧ t.seq.buf = a ∧ t.seq.sizeL = b ∧
        Instr.ofFields op t.seq.opndReg t.seq.opndA t.seq.opndB = Instr.ofFields op 0 a b ∧ t.results = s.results ∧
        noTransaction s t ∧ sameMemory s t ∧ sameSetting s t

/-- R179, R189: `Configuring` is two steps in this order: the size register is written with `size_l` unchanged, then the
one-bit start word is written to `CTRL`; then `RECV_FRAME` waits for data and `SEND_FRAME` fills from offset 0. What `polls`
holds on entering the wait is the model's (log entry 14) and is not claimed. -/
def Obligations.ConfiguringWritesSizeThenStart : Prop :=
  ∀ (s : State) (a b : Word), s.specLiterals → s.seq.phase = .configuring →
    (s.seq.curOp = some .recvFrame → s.seq.subStep = 0 → ∃ t, exec (.recvFrame a b) s = .next t ∧
      oneWrite .rxsize s.seq.sizeL s t ∧ t.seq = { s.seq with subStep := 1 } ∧ t.results = s.results ∧
      sameMemory s t ∧ sameSetting s t) ∧
    (s.seq.curOp = some .recvFrame → s.seq.subStep = 1 → ∃ t, exec (.recvFrame a b) s = .next t ∧
      oneWrite .ctrl 0x00000002 s t ∧ t.seq = { s.seq with subStep := 2, phase := .waitingForData, polls := t.seq.polls } ∧
      t.results = s.results ∧ sameMemory s t ∧ sameSetting s t) ∧
    (s.seq.curOp = some .sendFrame → s.seq.subStep = 0 → ∃ t, exec (.sendFrame a b) s = .next t ∧
      oneWrite .txsize s.seq.sizeL s t ∧ t.seq = { s.seq with subStep := 1 } ∧ t.results = s.results ∧
      sameMemory s t ∧ sameSetting s t) ∧
    (s.seq.curOp = some .sendFrame → s.seq.subStep = 1 → ∃ t, exec (.sendFrame a b) s = .next t ∧
      oneWrite .ctrl 0x00000004 s t ∧ t.seq = { s.seq with subStep := 2, phase := .filling, offset := 0 } ∧
      t.results = s.results ∧ sameMemory s t ∧ sameSetting s t)

/-- R181, R177: a poll of `WaitingForData` reads `RX_STATUS` once; bit 0 alone decides; when it is set the engine goes to
`Draining` with offset 0 in the same step, and otherwise the poll is counted (R177) and the phase stays. In `Draining`
`RX_STATUS` is not read again. What `polls` holds on leaving is the model's choice (log entry 14) and is not claimed. -/
def Obligations.WaitingForDataPollsReadyBit : Prop :=
  (∀ (s : State) (a b : Word), s.specLiterals → s.seq.curOp = some .recvFrame → s.seq.phase = .waitingForData →
    s.cfg.pollLimit ≠ some s.seq.polls →
      ∃ t, exec (.recvFrame a b) s = .next t ∧ oneRead .rxStatus s t ∧ t.results = s.results ∧ sameMemory s t ∧
        sameSetting s t ∧
        t.seq = if (s.readValue .rxStatus).getLsbD 0 then
            { s.seq with tmp := s.readValue .rxStatus, offset := 0, phase := .draining, polls := t.seq.polls }
          else { s.seq with tmp := s.readValue .rxStatus, polls := s.seq.polls + 1 }) ∧
    (∀ (s t : State) (a b : Word), s.seq.curOp = some .recvFrame → s.seq.phase = .draining →
      exec (.recvFrame a b) s = .next t →
        ∃ l : List BusEvent, t.busTrace = s.busTrace ++ l ∧ ∀ v, BusEvent.read .rxStatus v ∉ l)

/-- R184, R199, R200: one step of `Draining`. At the end of the frame there is no transaction and the phase is `Done`.
Otherwise there is one read of `RXFIFO_DATA`: with bit 31 clear its low byte is stored at `buf + offset` and no other byte
of host memory changes, and `offset` moves by one; with bit 31 set nothing is stored and `offset` stays, and the empty read
that reaches the poll limit ends the operation with `Timeout(Draining)` (the count and the limit: the spec's decision
D18). -/
def Obligations.DrainingStoresEachDeliveredByte : Prop :=
  ∀ (s : State) (a b : Word), s.specLiterals → s.seq.curOp = some .recvFrame → s.seq.phase = .draining →
    Memory.wf s.mem = true →
    (s.seq.offset = s.seq.sizeL → ∃ t, exec (.recvFrame a b) s = .next t ∧ t.seq = { s.seq with phase := .done } ∧
      t.results = s.results ∧ noTransaction s t ∧ sameMemory s t ∧ sameSetting s t) ∧
    (s.seq.offset ≠ s.seq.sizeL → (s.readValue .rxfifoData).getLsbD 31 = false →
      ∃ t, exec (.recvFrame a b) s = .next t ∧ oneRead .rxfifoData s t ∧ t.results = s.results ∧ sameSetting s t ∧
        t.seq = { s.seq with tmp := s.readValue .rxfifoData, offset := s.seq.offset + 1, polls := 0 } ∧
        ∀ x, Memory.read t.mem x =
          if x = (s.seq.buf.toNat + s.seq.offset.toNat) % 2 ^ s.cfg.addrWidth then
            (s.readValue .rxfifoData).extractLsb' 0 8
          else Memory.read s.mem x) ∧
    (s.seq.offset ≠ s.seq.sizeL → (s.readValue .rxfifoData).getLsbD 31 = true →
      s.cfg.pollLimit ≠ some (s.seq.polls + 1) →
      ∃ t, exec (.recvFrame a b) s = .next t ∧ oneRead .rxfifoData s t ∧ t.results = s.results ∧ sameMemory s t ∧
        sameSetting s t ∧ t.seq = { s.seq with tmp := s.readValue .rxfifoData, polls := s.seq.polls + 1 }) ∧
    (s.seq.offset ≠ s.seq.sizeL → (s.readValue .rxfifoData).getLsbD 31 = true →
      s.cfg.pollLimit = some (s.seq.polls + 1) →
      ∃ t, exec (.recvFrame a b) s = .next t ∧ endedWith .timeoutDraining 0 s t ∧ oneRead .rxfifoData s t ∧
        sameMemory s t ∧ sameSetting s t ∧ t.seq.offset = s.seq.offset)

/-- R191, R199, R200: one step of `Filling`. At the end of the buffer there is no transaction and the phase is
`DrainWait`. Otherwise the byte at `buf + offset` is written to `TXFIFO_DATA`, zero-extended, and `offset` moves by one.
Host memory is only read. The upper 24 bits of the word are the spec's decision D16; that `polls` starts at 0 on leaving is
log entry 14. -/
def Obligations.FillingWritesEachByteInOrder : Prop :=
  ∀ (s : State) (a b : Word), s.seq.curOp = some .sendFrame → s.seq.phase = .filling →
    (s.seq.offset = s.seq.sizeL → ∃ t, exec (.sendFrame a b) s = .next t ∧
      t.seq = { s.seq with phase := .drainWait, polls := 0 } ∧ t.results = s.results ∧ noTransaction s t ∧
      sameMemory s t ∧ sameSetting s t) ∧
    (s.seq.offset ≠ s.seq.sizeL → ∃ t, exec (.sendFrame a b) s = .next t ∧
      oneWrite .txfifoData
        ((Memory.read s.mem ((s.seq.buf.toNat + s.seq.offset.toNat) % 2 ^ s.cfg.addrWidth)).setWidth 32) s t ∧
      t.seq = { s.seq with offset := s.seq.offset + 1 } ∧ t.results = s.results ∧ sameMemory s t ∧ sameSetting s t)

/-- R194, R177: a poll of `DrainWait` reads `TXFIFO_SIZE` once and compares all 32 bits with zero; when it is zero the
phase is `Done`, and otherwise it stays. -/
def Obligations.DrainWaitPollsForZero : Prop :=
  ∀ (s : State) (a b : Word), s.seq.curOp = some .sendFrame → s.seq.phase = .drainWait →
    s.cfg.pollLimit ≠ some s.seq.polls →
      ∃ t, exec (.sendFrame a b) s = .next t ∧ oneRead .txfifoSize s t ∧ t.results = s.results ∧ sameMemory s t ∧
        sameSetting s t ∧
        t.seq = { s.seq with
          tmp := s.readValue .txfifoSize
          polls := s.seq.polls + 1
          phase := if s.readValue .txfifoSize = 0 then .done else .drainWait }

/-- R185, R195: `Done` writes no register and reads none, leaves host memory as it is, and ends the operation with
`Ok, 0` (the spec's decision D17). -/
def Obligations.DoneEndsTheTransfer : Prop :=
  ∀ (s : State) (op : Op) (a b : Word), op ∈ [Op.recvFrame, Op.sendFrame] → s.seq.curOp = some op →
    s.seq.phase = .done →
      ∃ t, exec (Instr.ofFields op 0 a b) s = .next t ∧ endedWith .ok 0 s t ∧ noTransaction s t ∧ sameMemory s t ∧
        sameSetting s t ∧ t.seq = { s.seq with curOp := none, phase := .idle }

/-- R177, R245: with a poll limit, a poll loop that has used it up ends the operation with its `Timeout` at the next poll of
`WaitingForData` or `DrainWait`, without a further read; nothing is undone. (`Draining` stops at the empty read that
reaches the limit: `DrainingStoresEachDeliveredByte`.) The limit is the spec's decision D18. -/
def Obligations.PollLimitEndsWithTimeout : Prop :=
  ∀ (s : State) (a b : Word),
    (s.seq.curOp = some .recvFrame → s.seq.phase = .waitingForData → s.cfg.pollLimit = some s.seq.polls →
      ∃ t, exec (.recvFrame a b) s = .next t ∧ endedWith .timeoutWaitingForData 0 s t ∧ noTransaction s t ∧
        sameMemory s t ∧ sameSetting s t) ∧
    (s.seq.curOp = some .sendFrame → s.seq.phase = .drainWait → s.cfg.pollLimit = some s.seq.polls →
      ∃ t, exec (.sendFrame a b) s = .next t ∧ endedWith .timeoutDrainWait 0 s t ∧ noTransaction s t ∧
        sameMemory s t ∧ sameSetting s t)

/-- R178 to R186, R231, 95_test_vectors.md V40 to V43: against a read script that is not ready some number of times, then
ready, then delivers the bytes of the frame with empty reads among them, `RECV_FRAME` ends with `Ok`; the trace is the two
configuring writes and the script's reads and nothing more; byte `i` of the buffer is the low byte of the `i`-th delivered
read and no other byte of host memory changed; nothing beyond the script's part was read. -/
def Obligations.RecvFrameReceivesTheFrame : Prop :=
  ∀ (s : State) (rest : List CallerAction) (buf : Word) (notReady : List Word) (ready : Word) (raw : List Word)
    (tail : List (Reg × Word)),
    let data := raw.filter (fun v => !v.getLsbD 31)
    let size := BitVec.ofNat 32 data.length
    s.specLiterals → s.idle → s.environment = .unconstrained → s.cfg.pollLimit = none → Memory.wf s.mem = true →
    (∀ v ∈ notReady, v.getLsbD 0 = false) → ready.getLsbD 0 = true →
    (∀ v, raw.getLast? = some v → v.getLsbD 31 = false) →
    data.length < 2 ^ 32 → buf.toNat + data.length ≤ 2 ^ s.cfg.addrWidth →
    s.caller = .issue (encode (.recvFrame buf size)) :: rest →
    s.answers = notReady.map (Prod.mk Reg.rxStatus) ++ (.rxStatus, ready) ::
      (raw.map (Prod.mk Reg.rxfifoData) ++ tail) →
      ∃ k t, run k s = .next t ∧ t.idle ∧ t.caller = rest ∧ t.results = s.results ++ [0x0000000000] ∧
        t.answers = tail ∧
        t.busTrace = s.busTrace ++ [.write .rxsize size, .write .ctrl 0x00000002] ++
          notReady.map (BusEvent.read .rxStatus) ++ [.read .rxStatus ready] ++
          raw.map (BusEvent.read .rxfifoData) ∧
        (∀ (i : Nat) (v : Word), data[i]? = some v → Memory.read t.mem (buf.toNat + i) = v.extractLsb' 0 8) ∧
        (∀ x, (x < buf.toNat ∨ buf.toNat + data.length ≤ x) → Memory.read t.mem x = Memory.read s.mem x)

/-- R188 to R196, R231, 95_test_vectors.md V50 to V53: against a read script of `TXFIFO_SIZE` that is nonzero some number
of times and then zero, `SEND_FRAME` ends with `Ok`; the trace is the two configuring writes, one write of `TXFIFO_DATA`
for each byte of the buffer in order, zero-extended, then the polls; host memory is unchanged. -/
def Obligations.SendFrameSendsTheBuffer : Prop :=
  ∀ (s : State) (rest : List CallerAction) (buf size : Word) (pending : List Word) (tail : List (Reg × Word)),
    s.specLiterals → s.idle → s.environment = .unconstrained → s.cfg.pollLimit = none →
    (∀ v ∈ pending, v ≠ 0) → buf.toNat + size.toNat ≤ 2 ^ s.cfg.addrWidth →
    s.caller = .issue (encode (.sendFrame buf size)) :: rest →
    s.answers = pending.map (Prod.mk Reg.txfifoSize) ++ (.txfifoSize, 0) :: tail →
      ∃ k t, run k s = .next t ∧ t.idle ∧ t.caller = rest ∧ t.results = s.results ++ [0x0000000000] ∧
        t.answers = tail ∧ sameMemory s t ∧
        t.busTrace = s.busTrace ++ [.write .txsize size, .write .ctrl 0x00000004] ++
          (List.range size.toNat).map (fun i =>
            BusEvent.write .txfifoData
              ((Memory.read s.mem ((buf.toNat + i) % 2 ^ s.cfg.addrWidth)).setWidth 32)) ++
          pending.map (BusEvent.read .txfifoSize) ++ [.read .txfifoSize 0]

/-- R253, R177, R181, R184, R194, R282, 95_test_vectors.md V44: with no poll limit each of the three waits (for data, for the
next byte of the receive FIFO, for the transmit FIFO to drain) goes on for as long as the peripheral answers "not ready",
"empty" or a nonzero count: after any number of such answers the operation is still in the same phase, at the same offset, has
issued exactly that many reads, and has returned nothing. The poll limit and its default are the spec's decision D18. -/
def Obligations.UnboundedWaitsNeverGiveUp : Prop :=
  ∀ (s : State) (vs : List Word) (tail : List (Reg × Word)), s.specLiterals → s.environment = .unconstrained →
    s.cfg.pollLimit = none →
    (s.seq.curOp = some .recvFrame → s.seq.phase = .waitingForData → (∀ v ∈ vs, v.getLsbD 0 = false) →
      s.answers = vs.map (Prod.mk Reg.rxStatus) ++ tail →
      ∃ t, run vs.length s = .next t ∧ t.seq.curOp = some .recvFrame ∧ t.seq.phase = .waitingForData ∧
        t.busTrace = s.busTrace ++ vs.map (BusEvent.read .rxStatus) ∧ t.results = s.results ∧ sameMemory s t) ∧
    (s.seq.curOp = some .recvFrame → s.seq.phase = .draining → s.seq.offset ≠ s.seq.sizeL →
      (∀ v ∈ vs, v.getLsbD 31 = true) → s.answers = vs.map (Prod.mk Reg.rxfifoData) ++ tail →
      ∃ t, run vs.length s = .next t ∧ t.seq.curOp = some .recvFrame ∧ t.seq.phase = .draining ∧
        t.seq.offset = s.seq.offset ∧ t.busTrace = s.busTrace ++ vs.map (BusEvent.read .rxfifoData) ∧
        t.results = s.results ∧ sameMemory s t) ∧
    (s.seq.curOp = some .sendFrame → s.seq.phase = .drainWait → (∀ v ∈ vs, v ≠ 0) →
      s.answers = vs.map (Prod.mk Reg.txfifoSize) ++ tail →
      ∃ t, run vs.length s = .next t ∧ t.seq.curOp = some .sendFrame ∧ t.seq.phase = .drainWait ∧
        t.busTrace = s.busTrace ++ vs.map (BusEvent.read .txfifoSize) ∧ t.results = s.results ∧ sameMemory s t)

/-- R197: the transition table of `RECV_FRAME` in progress, row by row, with the exits a poll limit adds: whatever its step
answers as a next state is one of these. The row of a delivered byte stores that byte, and no other row changes a byte of host
memory. -/
def Obligations.RecvFollowsTransitionTable : Prop :=
  ∀ (s t : State) (a b : Word), s.specLiterals → s.seq.curOp = some .recvFrame →
    exec (.recvFrame a b) s = .next t →
    let status := s.readValue .rxStatus
    let word := s.readValue .rxfifoData
    (s.seq.phase = .configuring ∧ s.seq.subStep = 0 ∧ t.seq.phase = .configuring ∧
      t.busTrace = s.busTrace ++ [.write .rxsize s.seq.sizeL] ∧ sameMemory s t) ∨
    (s.seq.phase = .configuring ∧ s.seq.subStep = 1 ∧ t.seq.phase = .waitingForData ∧
      t.busTrace = s.busTrace ++ [.write .ctrl 2] ∧ sameMemory s t) ∨
    (s.seq.phase = .waitingForData ∧ status.getLsbD 0 = false ∧ t.seq.phase = .waitingForData ∧
      t.busTrace = s.busTrace ++ [.read .rxStatus status] ∧ sameMemory s t) ∨
    (s.seq.phase = .waitingForData ∧ status.getLsbD 0 = true ∧ t.seq.phase = .draining ∧
      t.busTrace = s.busTrace ++ [.read .rxStatus status] ∧ sameMemory s t) ∨
    (s.seq.phase = .draining ∧ s.seq.offset ≠ s.seq.sizeL ∧ word.getLsbD 31 = true ∧ t.seq.phase = .draining ∧
      t.seq.offset = s.seq.offset ∧ t.busTrace = s.busTrace ++ [.read .rxfifoData word] ∧ sameMemory s t) ∨
    (s.seq.phase = .draining ∧ s.seq.offset ≠ s.seq.sizeL ∧ word.getLsbD 31 = false ∧ t.seq.phase = .draining ∧
      t.seq.offset = s.seq.offset + 1 ∧ t.busTrace = s.busTrace ++ [.read .rxfifoData word] ∧
      (Memory.wf s.mem = true → ∀ x, Memory.read t.mem x =
        if x = s.bufferAddress s.seq.offset then word.extractLsb' 0 8 else Memory.read s.mem x)) ∨
    (s.seq.phase = .draining ∧ s.seq.offset = s.seq.sizeL ∧ t.seq.phase = .done ∧ t.busTrace = s.busTrace ∧
      sameMemory s t) ∨
    (s.seq.phase = .done ∧ t.seq.phase = .idle ∧ t.idle ∧ t.busTrace = s.busTrace ∧ sameMemory s t) ∨
    (s.cfg.pollLimit ≠ none ∧ s.seq.phase = .waitingForData ∧ t.seq.phase = .idle ∧ t.idle ∧
      t.busTrace = s.busTrace ∧ sameMemory s t) ∨
    (s.cfg.pollLimit ≠ none ∧ s.seq.phase = .draining ∧ word.getLsbD 31 = true ∧ t.seq.phase = .idle ∧ t.idle ∧
      t.busTrace = s.busTrace ++ [.read .rxfifoData word] ∧ sameMemory s t)

/-- R197: the transition table of `SEND_FRAME` in progress, row by row, with the exit a poll limit adds. -/
def Obligations.SendFollowsTransitionTable : Prop :=
  ∀ (s t : State) (a b : Word), s.specLiterals → s.seq.curOp = some .sendFrame → exec (.sendFrame a b) s = .next t →
    let count := s.readValue .txfifoSize
    (s.seq.phase = .configuring ∧ s.seq.subStep = 0 ∧ t.seq.phase = .configuring ∧
      t.busTrace = s.busTrace ++ [.write .txsize s.seq.sizeL]) ∨
    (s.seq.phase = .configuring ∧ s.seq.subStep = 1 ∧ t.seq.phase = .filling ∧
      t.busTrace = s.busTrace ++ [.write .ctrl 4]) ∨
    (s.seq.phase = .filling ∧ s.seq.offset ≠ s.seq.sizeL ∧ t.seq.phase = .filling ∧
      t.seq.offset = s.seq.offset + 1 ∧
      t.busTrace = s.busTrace ++
        [.write .txfifoData ((Memory.read s.mem (s.bufferAddress s.seq.offset)).setWidth 32)]) ∨
    (s.seq.phase = .filling ∧ s.seq.offset = s.seq.sizeL ∧ t.seq.phase = .drainWait ∧ t.busTrace = s.busTrace) ∨
    (s.seq.phase = .drainWait ∧ count ≠ 0 ∧ t.seq.phase = .drainWait ∧
      t.busTrace = s.busTrace ++ [.read .txfifoSize count]) ∨
    (s.seq.phase = .drainWait ∧ count = 0 ∧ t.seq.phase = .done ∧
      t.busTrace = s.busTrace ++ [.read .txfifoSize 0]) ∨
    (s.seq.phase = .done ∧ t.seq.phase = .idle ∧ t.idle ∧ t.busTrace = s.busTrace) ∨
    (s.cfg.pollLimit ≠ none ∧ s.seq.phase = .drainWait ∧ t.seq.phase = .idle ∧ t.idle ∧ t.busTrace = s.busTrace)

/-! ## The whole machine -/

/-- R199, R13: one step contains at most one bus transaction; the trace only grows; a byte of host memory changes in a step
of an operation in progress only together with a non-empty read of `RXFIFO_DATA` (the spec's decision D1). -/
def Obligations.StepIssuesAtMostOneTransaction : Prop :=
  ∀ s t : State, s.specLiterals → step s = .next t →
    (∃ l : List BusEvent, l.length ≤ 1 ∧ t.busTrace = s.busTrace ++ l) ∧
      (s.seq.curOp ≠ none → ¬ sameMemory s t →
        ∃ v : Word, v.getLsbD 31 = false ∧ t.busTrace = s.busTrace ++ [.read .rxfifoData v])

/-- R46, R150, R185, R195: no step of an operation changes a byte of host memory, but for the byte at `buf + offset` when
`RECV_FRAME` drains. -/
def Obligations.OperationsWriteOnlyTheFrameBuffer : Prop :=
  ∀ (s t : State) (i : Instr), Memory.wf s.mem = true → exec i s = .next t →
    ∀ x, Memory.read t.mem x ≠ Memory.read s.mem x →
      s.seq.curOp = some .recvFrame ∧ s.seq.phase = .draining ∧ s.seq.offset ≠ s.seq.sizeL ∧
        x = s.bufferAddress s.seq.offset

/-- R198: a step of `RECV_FRAME` in progress issues no transmit-side transaction, and a step of `SEND_FRAME` in progress
no receive-side one. -/
def Obligations.DirectionsAreNeverInterleaved : Prop :=
  ∀ s t : State, s.specLiterals → step s = .next t →
    (s.seq.curOp = some .recvFrame →
      ∃ l : List BusEvent, t.busTrace = s.busTrace ++ l ∧ ∀ e ∈ l, e.transmitSide s.cfg.literals = false) ∧
    (s.seq.curOp = some .sendFrame →
      ∃ l : List BusEvent, t.busTrace = s.busTrace ++ l ∧ ∀ e ∈ l, e.receiveSide s.cfg.literals = false)

/-- R25: no step changes the configuration. That the configuration is carried in the state is log entry 2, and that the
environment is a field beside it, which no step changes either, is log entry 8 (both DESIGN CHOICE). -/
def Obligations.StepKeepsConfiguration : Prop :=
  ∀ s t : State, step s = .next t → t.cfg = s.cfg ∧ t.environment = s.environment

/-- R96, R240: a step returns at most one result word, and an operation that ends returns exactly one, a legal one, in the
step that ends it: an operation in progress, an operation that ends in the step that accepts it, and a refused or illegal
command word alike. A step that takes no command word and has no operation in progress returns none. Which operations end in
the step that accepts them is log entry 11 (DEDUCED); the list of result words is log entry 16 (DESIGN CHOICE). -/
def Obligations.ResultsComeOneAtATheEnd : Prop :=
  ∀ s t : State, step s = .next t →
    let ends : Prop := t.idle ∧ t.seq.phase = .idle ∧
      ∃ w : ResultWord, resultLegal w = true ∧ t.results = s.results ++ [w]
    (∀ op : Op, s.seq.curOp = some op → (t.seq.curOp = some op ∧ t.results = s.results) ∨ ends) ∧
      (s.idle → (∀ w rest, s.caller ≠ .issue w :: rest) → t.idle ∧ t.results = s.results) ∧
      (∀ (w : Command) (rest : List CallerAction), s.idle → s.caller = .issue w :: rest →
        (∃ i : Instr, decode w = .op i ∧ t.seq.curOp = some i.op ∧ t.results = s.results) ∨ ends)

/-- R23, R46, R96, R123, R225, 90_conflicts.md C10: every step keeps the invariant: host memory canonical and below its
top, a legal sequencing state with `offset` at most `size_l`, polls within the limit, no write to a read-only register on
the bus, legal result words, FIFOs within their depths. -/
def Obligations.StepKeepsInvariant : Prop :=
  ∀ s t : State, s.Inv → step s = .next t → t.Inv

/-- R50 and the model's reset values (log entries 3, 4, 5): the invariant holds right after reset. -/
def Obligations.ResetHasInvariant : Prop :=
  State.reset.Inv

/-- R253, R240: under the invariant the machine always has a next state: nothing is ever stuck, and no operation faults or
is left without a meaning. -/
def Obligations.MachineNeverStops : Prop :=
  ∀ s : State, s.Inv → ∃ t, step s = .next t

/-- R50, R270: right after reset no operation is in progress, the phase is `Idle`, the trace is empty and both wire traces
are empty; the reference device is empty, disabled and not ready. The configured literals are those of
R98. That the configuration is legal (an opaque base made legal, an octet accumulator of a legal width) rests on log entries 2
and 19. The model's other choices (zero latches and storage registers, blank memory: log entries 3, 4, 5) are not claimed
here. -/
def Obligations.ResetStateIsIdle : Prop :=
  State.reset.idle ∧ State.reset.seq.phase = .idle ∧ State.reset.busTrace = [] ∧ State.reset.dev.wireRx = [] ∧
    State.reset.dev.wireTx = [] ∧ State.reset.dev.rxFifo = [] ∧ State.reset.dev.txFifo = [] ∧
    State.reset.dev.enabled = false ∧ State.reset.dev.rxActive = false ∧ State.reset.dev.txActive = false ∧
    State.reset.dev.rxReady = false ∧ State.reset.dev.rxLeft = 0 ∧ State.reset.dev.txLeft = 0 ∧
    State.reset.cfg.literals = { ctrlEnable := 0x00000001, ctrlRxStart := 0x00000002, ctrlTxStart := 0x00000004,
                                 rxReady := 0x00000001, rxfifoEmpty := 0x80000000, rxfifoByte := 0x000000FF,
                                 txfifoByte := 0x000000FF } ∧
    State.reset.cfg.wf = true

/-! ## The register block on the bus -/

/-- R61, R64, R71, R31: for every legal configuration each register's word is aligned and lies inside the block below the
top of the address space; no two registers share a byte; no register's word touches a reserved gap (the spec's decisions
D3, D4 and D32). -/
def Obligations.BusAddressesAreAlignedAndDisjoint : Prop :=
  ∀ (c : Config) (r q : Reg), c.wf = true →
    c.busAddress r % 4 = 0 ∧ c.base ≤ c.busAddress r ∧ c.busAddress r + 4 ≤ c.base + c.layout.span ∧
      c.busAddress r + 4 ≤ 2 ^ c.addrWidth ∧
      (r ≠ q → c.busAddress r + 4 ≤ c.busAddress q ∨ c.busAddress q + 4 ≤ c.busAddress r) ∧
      (c.busAddress r + 4 ≤ c.base + c.layout.rsvd0 ∨
        c.base + c.layout.rsvd0 + 4 * c.layout.rsvd0Words ≤ c.busAddress r) ∧
      (c.busAddress r + 4 ≤ c.base + c.layout.rsvd1 ∨
        c.base + c.layout.rsvd1 + 4 * c.layout.rsvd1Words ≤ c.busAddress r)

/-- R66, R159: the little-endian image of an address register holds the dotted octets in text order (R66's byte order is
derived in the spec). -/
def Obligations.AddressRegisterImageIsInTextOrder : Prop :=
  ∀ o1 o2 o3 o4 : Byte,
    let text := numeral o1 ++ charDot :: (numeral o2 ++ charDot :: (numeral o3 ++ charDot :: numeral o4))
    imageByte (encodeIp 8 text) 0 = o1 ∧ imageByte (encodeIp 8 text) 1 = o2 ∧
      imageByte (encodeIp 8 text) 2 = o3 ∧ imageByte (encodeIp 8 text) 3 = o4

/-! ## The reference device -/

/-- R226: a bus write of `CTRL` in the reference environment: a word with more than one command bit or with a bit above them
sets the sticky fault and does nothing else; the word 0 does nothing; bit 0 enables, bit 1 starts a receive of `RXSIZE` bytes,
bit 2 starts a transmit of `TXSIZE` bytes; a 0 bit does nothing. No stored register changes. The reference device is wholly the
spec's own (decision D22). -/
def Obligations.DeviceObeysControlCommands : Prop :=
  ∀ s : State, s.specLiterals → s.environment = .reference →
    (∀ v : Word, v ∉ ([0, 1, 2, 4] : List Word) → (s.busWrite .ctrl v).dev = { s.dev with deviceFault := true }) ∧
      (s.busWrite .ctrl 0).dev = s.dev ∧ (s.busWrite .ctrl 1).dev = { s.dev with enabled := true } ∧
      (s.busWrite .ctrl 2).dev = { s.dev with rxActive := true, rxLeft := s.regs.rxsize, rxReady := false } ∧
      (s.busWrite .ctrl 4).dev = { s.dev with txActive := true, txLeft := s.regs.txsize } ∧
      ∀ v : Word, (s.busWrite .ctrl v).regs = s.regs

/-- R227, R228: in the reference environment a read of `RXFIFO_DATA` from an empty FIFO answers the empty bit and removes
nothing; from a FIFO with a head it answers that byte, zero-extended, and removes it alone; the other reads answer the
stored value, the ready bit, a length, or 0, and change nothing. A write of a storage register stores the value; a write of
`TXFIFO_DATA` puts its low byte at the tail of the transmit FIFO when there is room, and otherwise sets the sticky fault
and queues nothing. A write of `CTRL` is a command to the device (what each does: `DeviceObeysControlCommands`) and stores
nothing. The reference device is wholly the spec's own (decision D22); a FIFO length is answered modulo `2 ^ 32`, log entry 27
(DESIGN CHOICE). -/
def Obligations.DeviceServesTheBus : Prop :=
  ∀ s : State, s.specLiterals → s.environment = .reference →
    (s.dev.rxFifo = [] → s.readValue .rxfifoData = 0x80000000 ∧ (s.busRead .rxfifoData).dev = s.dev) ∧
    (∀ (b : Byte) (rest : List Byte), s.dev.rxFifo = b :: rest →
      s.readValue .rxfifoData = b.setWidth 32 ∧ (s.busRead .rxfifoData).dev = { s.dev with rxFifo := rest }) ∧
    s.readValue .rxStatus = (if s.dev.rxReady then 1 else 0) ∧
    (∀ r ∈ [Reg.status, Reg.txStatus, Reg.ctrl, Reg.txfifoData], s.readValue r = 0) ∧
    s.readValue .rxfifoSize = BitVec.ofNat 32 s.dev.rxFifo.length ∧
    s.readValue .txfifoSize = BitVec.ofNat 32 s.dev.txFifo.length ∧
    (∀ (r : Reg) (v : Word), s.regs.read r = some v → s.readValue r = v) ∧
    (∀ r : Reg, (s.busRead r).regs = s.regs ∧ (r ≠ .rxfifoData → (s.busRead r).dev = s.dev)) ∧
    (∀ (r : Reg) (old v : Word), s.regs.read r = some old →
      (s.busWrite r v).regs.read r = some v ∧ (s.busWrite r v).dev = s.dev) ∧
    (∀ v : Word, (s.busWrite .ctrl v).dev = s.dev.command s.cfg.literals s.regs v ∧
      (s.busWrite .ctrl v).regs = s.regs) ∧
    (∀ v : Word, s.dev.txFifo.length < s.cfg.txDepth →
      (s.busWrite .txfifoData v).dev = { s.dev with txFifo := s.dev.txFifo ++ [v.extractLsb' 0 8] }) ∧
    (∀ v : Word, s.cfg.txDepth ≤ s.dev.txFifo.length →
      (s.busWrite .txfifoData v).dev = { s.dev with deviceFault := true })

/-- R211, R214, R215, R230: whatever steps the reference device takes, no byte is lost, doubled or reordered: the bytes
waiting in the receive FIFO followed by those still on the wire stay the same list, and so do the bytes sent followed by
those in the transmit FIFO; the FIFOs stay within their depths; and a device that is not enabled takes no step (the
reference device is the spec's decision D22). -/
def Obligations.DeviceStepsKeepByteOrder : Prop :=
  ∀ (d : Device) (c : Config) (ms : List DeviceMove),
    (d.moves c ms).rxFifo ++ (d.moves c ms).wireRx = d.rxFifo ++ d.wireRx ∧
      (d.moves c ms).wireTx ++ (d.moves c ms).txFifo = d.wireTx ++ d.txFifo ∧
      (d.fifosBounded c = true → (d.moves c ms).fifosBounded c = true) ∧
      (d.moves c ms).enabled = d.enabled ∧ (d.moves c ms).deviceFault = d.deviceFault ∧
      (d.enabled = false → d.moves c ms = d)

/-- R272, U9: against a reference device that is not enabled and not ready, and with no poll limit, a `RECV_FRAME` that
waits for data waits for ever: after any number of steps it is still waiting and the device still disabled (derived in the
spec from R227 and R230). -/
def Obligations.ReceiveBeforeInitHangs : Prop :=
  ∀ (s : State) (k : Nat), s.environment = .reference → s.dev.enabled = false → s.dev.rxReady = false →
    s.cfg.pollLimit = none → s.seq.curOp = some .recvFrame → s.seq.phase = .waitingForData →
      ∃ t, run k s = .next t ∧ t.seq.curOp = some .recvFrame ∧ t.seq.phase = .waitingForData ∧
        t.dev.enabled = false ∧ t.results = s.results
end

