-- ==== Sys2Proof/Laws/Memory.lean ====
section
/-! SUPPORT. The laws of host memory: a read after a write, and that every memory operation keeps the canonical form. -/

namespace Sys2Proof.Machine

@[simp] theorem Memory.read_nil (a : Nat) : Memory.read [] a = blankByte := rfl

theorem Memory.read_cons (k : Nat) (b : Byte) (m : Memory) (a : Nat) :
    Memory.read ((k, b) :: m) a = if k = a then b else Memory.read m a := rfl

/-- A memory whose addresses all lie above `a` reads as blank at `a`. -/
theorem Memory.read_of_all_lt (m : Memory) (a : Nat) (h : m.all (fun c => a < c.1) = true) :
    Memory.read m a = blankByte := by
  induction m with
  | nil => rfl
  | cons c rest ih =>
    obtain ⟨k, b⟩ := c
    simp only [List.all_cons, Bool.and_eq_true, decide_eq_true_eq] at h
    rw [Memory.read_cons, if_neg (by omega), ih h.2]

theorem Memory.all_lt_trans (m : Memory) (a k : Nat) (hak : a < k) (h : m.all (fun c => k < c.1) = true) :
    m.all (fun c => a < c.1) = true := by
  simp only [List.all_eq_true, decide_eq_true_eq] at h ⊢
  exact fun c hc => hak.trans (h c hc)

theorem Memory.read_put (a : Nat) (v : Byte) (m : Memory) (x : Nat) (h : m.all (fun c => a < c.1) = true) :
    Memory.read (Memory.put a v m) x = if x = a then v else Memory.read m x := by
  unfold Memory.put
  split
  · split
    · subst_vars
      exact Memory.read_of_all_lt m _ h
    · rfl
  · rw [Memory.read_cons]
    simp only [eq_comm]

/-- A read after a write gives the value written at that address and the old byte everywhere else. -/
theorem Memory.read_write (m : Memory) (a : Nat) (v : Byte) (x : Nat) (h : Memory.wf m = true) :
    Memory.read (Memory.write m a v) x = if x = a then v else Memory.read m x := by
  induction m with
  | nil => exact Memory.read_put a v [] x rfl
  | cons c rest ih =>
    obtain ⟨k, b⟩ := c
    simp only [Memory.wf, Bool.and_eq_true] at h
    unfold Memory.write
    split
    · rename_i hlt
      refine Memory.read_put a v _ x ?_
      simp only [List.all_cons, Bool.and_eq_true, decide_eq_true_eq]
      exact ⟨hlt, Memory.all_lt_trans rest a k hlt h.1.2⟩
    · split
      · subst_vars
        rw [Memory.read_put k v rest x h.1.2, Memory.read_cons]
        split
        · rfl
        · rw [if_neg (by omega)]
      · rw [Memory.read_cons, Memory.read_cons, ih h.2]
        split
        · rw [if_neg (by omega)]
        · rfl

theorem Memory.read_write_same (m : Memory) (a : Nat) (v : Byte) (h : Memory.wf m = true) :
    Memory.read (Memory.write m a v) a = v := by
  rw [Memory.read_write m a v a h, if_pos rfl]

theorem Memory.read_write_other (m : Memory) (a : Nat) (v : Byte) (x : Nat) (hx : x ≠ a) (h : Memory.wf m = true) :
    Memory.read (Memory.write m a v) x = Memory.read m x := by
  rw [Memory.read_write m a v x h, if_neg hx]

theorem Memory.all_put (p : Host.Cell → Bool) (a : Nat) (v : Byte) (m : Memory) (hp : p (a, v) = true)
    (h : m.all p = true) : (Memory.put a v m).all p = true := by
  unfold Memory.put
  split
  · exact h
  · simp [hp, h]

/-- What holds of every cell and of the written cell holds of every cell after the write. -/
theorem Memory.all_write (p : Host.Cell → Bool) (m : Memory) (a : Nat) (v : Byte) (hp : p (a, v) = true)
    (h : m.all p = true) : (Memory.write m a v).all p = true := by
  induction m with
  | nil => exact Memory.all_put p a v [] hp rfl
  | cons c rest ih =>
    obtain ⟨k, b⟩ := c
    have h' := h
    simp only [List.all_cons, Bool.and_eq_true] at h'
    unfold Memory.write
    split
    · exact Memory.all_put p a v _ hp h
    · split
      · exact Memory.all_put p a v rest hp h'.2
      · simp only [List.all_cons, Bool.and_eq_true]
        exact ⟨h'.1, ih h'.2⟩

theorem Memory.put_wf (a : Nat) (v : Byte) (m : Memory) (hm : Memory.wf m = true)
    (h : m.all (fun c => a < c.1) = true) : Memory.wf (Memory.put a v m) = true := by
  unfold Memory.put
  split
  · exact hm
  · rename_i hv
    simp only [Memory.wf, Bool.and_eq_true, bne_iff_ne, ne_eq]
    exact ⟨⟨hv, h⟩, hm⟩

/-- A write keeps the canonical form. -/
theorem Memory.write_wf (m : Memory) (a : Nat) (v : Byte) (h : Memory.wf m = true) :
    Memory.wf (Memory.write m a v) = true := by
  induction m with
  | nil => exact Memory.put_wf a v [] rfl rfl
  | cons c rest ih =>
    obtain ⟨k, b⟩ := c
    have h' := h
    simp only [Memory.wf, Bool.and_eq_true] at h'
    unfold Memory.write
    split
    · rename_i hlt
      refine Memory.put_wf a v _ h ?_
      simp only [List.all_cons, Bool.and_eq_true, decide_eq_true_eq]
      exact ⟨hlt, Memory.all_lt_trans rest a k hlt h'.1.2⟩
    · split
      · subst_vars
        exact Memory.put_wf k v rest h'.2 h'.1.2
      · simp only [Memory.wf, Bool.and_eq_true]
        refine ⟨⟨h'.1.1, Memory.all_write _ rest a v ?_ h'.1.2⟩, ih h'.2⟩
        simp only [decide_eq_true_eq]
        omega

/-- A write below the top of host memory keeps every listed address below it. -/
theorem Memory.write_below (top : Nat) (m : Memory) (a : Nat) (v : Byte) (ha : a < top)
    (h : Memory.below top m = true) : Memory.below top (Memory.write m a v) = true :=
  Memory.all_write _ m a v (by simpa using ha) h

/-- The memory right after reset has the canonical form. -/
theorem Memory.wf_reset : Memory.wf State.reset.mem = true := rfl

/-- The host address of a buffer byte lies below the top of host memory. -/
theorem State.bufferAddress_lt (s : State) (i : Word) : s.bufferAddress i < 2 ^ s.cfg.addrWidth :=
  Nat.mod_lt _ (Nat.two_pow_pos _)

@[simp] theorem Memory.bytes_length (m : Memory) (a n : Nat) : (Memory.bytes m a n).length = n := by
  induction n generalizing a with
  | zero => rfl
  | succ n ih => simp [Memory.bytes, ih]

/-- Byte `i` of a range of host memory is the byte at its address (41_address_port_encoding.md R151). -/
theorem Memory.bytes_get (m : Memory) (a n i : Nat) (h : i < n) :
    (Memory.bytes m a n)[i]? = some (Memory.read m (a + i)) := by
  induction n generalizing a i with
  | zero => omega
  | succ n ih =>
    cases i with
    | zero => simp [Memory.bytes]
    | succ i =>
      simp only [Memory.bytes, List.getElem?_cons_succ]
      rw [ih (a + 1) i (by omega)]
      congr 2
      omega

end Sys2Proof.Machine
end

