-- ==== Sys2Proof/Laws/State.lean ====
section
/-! SUPPORT. The field lemmas of every named update of the state: one per field per update, each true by definition, so that
no proof unfolds a record update. The two updates that depend on the environment (`afterRead`, `peripheralMoves`) and
`busRead` get the same lemmas by cases. -/

namespace Sys2Proof.Machine

variable (s : State)

@[simp] theorem State.memWrite_cfg (a : Nat) (v : Byte) :
    (s.memWrite a v).cfg = s.cfg := rfl

@[simp] theorem State.memWrite_caller (a : Nat) (v : Byte) :
    (s.memWrite a v).caller = s.caller := rfl

@[simp] theorem State.memWrite_seq (a : Nat) (v : Byte) :
    (s.memWrite a v).seq = s.seq := rfl

@[simp] theorem State.memWrite_regs (a : Nat) (v : Byte) :
    (s.memWrite a v).regs = s.regs := rfl

@[simp] theorem State.memWrite_dev (a : Nat) (v : Byte) :
    (s.memWrite a v).dev = s.dev := rfl

@[simp] theorem State.memWrite_mem (a : Nat) (v : Byte) :
    (s.memWrite a v).mem = Memory.write s.mem a v := rfl

@[simp] theorem State.memWrite_busTrace (a : Nat) (v : Byte) :
    (s.memWrite a v).busTrace = s.busTrace := rfl

@[simp] theorem State.memWrite_results (a : Nat) (v : Byte) :
    (s.memWrite a v).results = s.results := rfl

@[simp] theorem State.memWrite_environment (a : Nat) (v : Byte) :
    (s.memWrite a v).environment = s.environment := rfl

@[simp] theorem State.memWrite_answers (a : Nat) (v : Byte) :
    (s.memWrite a v).answers = s.answers := rfl

@[simp] theorem State.memWrite_schedule (a : Nat) (v : Byte) :
    (s.memWrite a v).schedule = s.schedule := rfl

@[simp] theorem State.memWrite_draws (a : Nat) (v : Byte) :
    (s.memWrite a v).draws = s.draws := rfl

@[simp] theorem State.busWrite_cfg (r : Reg) (v : Word) :
    (s.busWrite r v).cfg = s.cfg := rfl

@[simp] theorem State.busWrite_caller (r : Reg) (v : Word) :
    (s.busWrite r v).caller = s.caller := rfl

@[simp] theorem State.busWrite_seq (r : Reg) (v : Word) :
    (s.busWrite r v).seq = s.seq := rfl

@[simp] theorem State.busWrite_regs (r : Reg) (v : Word) :
    (s.busWrite r v).regs = s.regs.write r v := rfl

@[simp] theorem State.busWrite_dev (r : Reg) (v : Word) :
    (s.busWrite r v).dev = s.deviceAfterWrite r v := rfl

@[simp] theorem State.busWrite_mem (r : Reg) (v : Word) :
    (s.busWrite r v).mem = s.mem := rfl

@[simp] theorem State.busWrite_busTrace (r : Reg) (v : Word) :
    (s.busWrite r v).busTrace = s.busTrace ++ [.write r v] := rfl

@[simp] theorem State.busWrite_results (r : Reg) (v : Word) :
    (s.busWrite r v).results = s.results := rfl

@[simp] theorem State.busWrite_environment (r : Reg) (v : Word) :
    (s.busWrite r v).environment = s.environment := rfl

@[simp] theorem State.busWrite_answers (r : Reg) (v : Word) :
    (s.busWrite r v).answers = s.answers := rfl

@[simp] theorem State.busWrite_schedule (r : Reg) (v : Word) :
    (s.busWrite r v).schedule = s.schedule := rfl

@[simp] theorem State.busWrite_draws (r : Reg) (v : Word) :
    (s.busWrite r v).draws = s.draws := rfl

@[simp] theorem State.finish_cfg (e : Ending) (v : Word) :
    (s.finish e v).cfg = s.cfg := rfl

@[simp] theorem State.finish_caller (e : Ending) (v : Word) :
    (s.finish e v).caller = s.caller := rfl

@[simp] theorem State.finish_seq (e : Ending) (v : Word) :
    (s.finish e v).seq = { s.seq with curOp := none, phase := .idle } := rfl

@[simp] theorem State.finish_regs (e : Ending) (v : Word) :
    (s.finish e v).regs = s.regs := rfl

@[simp] theorem State.finish_dev (e : Ending) (v : Word) :
    (s.finish e v).dev = s.dev := rfl

@[simp] theorem State.finish_mem (e : Ending) (v : Word) :
    (s.finish e v).mem = s.mem := rfl

@[simp] theorem State.finish_busTrace (e : Ending) (v : Word) :
    (s.finish e v).busTrace = s.busTrace := rfl

@[simp] theorem State.finish_results (e : Ending) (v : Word) :
    (s.finish e v).results = s.results ++ [resultWord e v] := rfl

@[simp] theorem State.finish_environment (e : Ending) (v : Word) :
    (s.finish e v).environment = s.environment := rfl

@[simp] theorem State.finish_answers (e : Ending) (v : Word) :
    (s.finish e v).answers = s.answers := rfl

@[simp] theorem State.finish_schedule (e : Ending) (v : Word) :
    (s.finish e v).schedule = s.schedule := rfl

@[simp] theorem State.finish_draws (e : Ending) (v : Word) :
    (s.finish e v).draws = s.draws := rfl

@[simp] theorem State.ret_cfg (v : Word) :
    (s.ret v).cfg = s.cfg := rfl

@[simp] theorem State.ret_caller (v : Word) :
    (s.ret v).caller = s.caller := rfl

@[simp] theorem State.ret_seq (v : Word) :
    (s.ret v).seq = { s.seq with curOp := none, phase := .idle } := rfl

@[simp] theorem State.ret_regs (v : Word) :
    (s.ret v).regs = s.regs := rfl

@[simp] theorem State.ret_dev (v : Word) :
    (s.ret v).dev = s.dev := rfl

@[simp] theorem State.ret_mem (v : Word) :
    (s.ret v).mem = s.mem := rfl

@[simp] theorem State.ret_busTrace (v : Word) :
    (s.ret v).busTrace = s.busTrace := rfl

@[simp] theorem State.ret_results (v : Word) :
    (s.ret v).results = s.results ++ [resultWord .ok v] := rfl

@[simp] theorem State.ret_environment (v : Word) :
    (s.ret v).environment = s.environment := rfl

@[simp] theorem State.ret_answers (v : Word) :
    (s.ret v).answers = s.answers := rfl

@[simp] theorem State.ret_schedule (v : Word) :
    (s.ret v).schedule = s.schedule := rfl

@[simp] theorem State.ret_draws (v : Word) :
    (s.ret v).draws = s.draws := rfl

@[simp] theorem State.raise_cfg (e : Ending) :
    (s.raise e).cfg = s.cfg := rfl

@[simp] theorem State.raise_caller (e : Ending) :
    (s.raise e).caller = s.caller := rfl

@[simp] theorem State.raise_seq (e : Ending) :
    (s.raise e).seq = { s.seq with curOp := none, phase := .idle } := rfl

@[simp] theorem State.raise_regs (e : Ending) :
    (s.raise e).regs = s.regs := rfl

@[simp] theorem State.raise_dev (e : Ending) :
    (s.raise e).dev = s.dev := rfl

@[simp] theorem State.raise_mem (e : Ending) :
    (s.raise e).mem = s.mem := rfl

@[simp] theorem State.raise_busTrace (e : Ending) :
    (s.raise e).busTrace = s.busTrace := rfl

@[simp] theorem State.raise_results (e : Ending) :
    (s.raise e).results = s.results ++ [resultWord e 0] := rfl

@[simp] theorem State.raise_environment (e : Ending) :
    (s.raise e).environment = s.environment := rfl

@[simp] theorem State.raise_answers (e : Ending) :
    (s.raise e).answers = s.answers := rfl

@[simp] theorem State.raise_schedule (e : Ending) :
    (s.raise e).schedule = s.schedule := rfl

@[simp] theorem State.raise_draws (e : Ending) :
    (s.raise e).draws = s.draws := rfl

@[simp] theorem State.start_cfg (op : Op) (a b : Word) :
    (s.start op a b).cfg = s.cfg := rfl

@[simp] theorem State.start_caller (op : Op) (a b : Word) :
    (s.start op a b).caller = s.caller := rfl

@[simp] theorem State.start_seq (op : Op) (a b : Word) :
    (s.start op a b).seq = { s.seq with curOp := some op, opndA := a, opndB := b, subStep := 0, readDone := false } := rfl

@[simp] theorem State.start_regs (op : Op) (a b : Word) :
    (s.start op a b).regs = s.regs := rfl

@[simp] theorem State.start_dev (op : Op) (a b : Word) :
    (s.start op a b).dev = s.dev := rfl

@[simp] theorem State.start_mem (op : Op) (a b : Word) :
    (s.start op a b).mem = s.mem := rfl

@[simp] theorem State.start_busTrace (op : Op) (a b : Word) :
    (s.start op a b).busTrace = s.busTrace := rfl

@[simp] theorem State.start_results (op : Op) (a b : Word) :
    (s.start op a b).results = s.results := rfl

@[simp] theorem State.start_environment (op : Op) (a b : Word) :
    (s.start op a b).environment = s.environment := rfl

@[simp] theorem State.start_answers (op : Op) (a b : Word) :
    (s.start op a b).answers = s.answers := rfl

@[simp] theorem State.start_schedule (op : Op) (a b : Word) :
    (s.start op a b).schedule = s.schedule := rfl

@[simp] theorem State.start_draws (op : Op) (a b : Word) :
    (s.start op a b).draws = s.draws := rfl

@[simp] theorem State.startReg_cfg (op : Op) (reg : BitVec 8) (a b : Word) :
    (s.startReg op reg a b).cfg = s.cfg := rfl

@[simp] theorem State.startReg_caller (op : Op) (reg : BitVec 8) (a b : Word) :
    (s.startReg op reg a b).caller = s.caller := rfl

@[simp] theorem State.startReg_seq (op : Op) (reg : BitVec 8) (a b : Word) :
    (s.startReg op reg a b).seq = { s.seq with
      curOp := some op, opndReg := reg, opndA := a, opndB := b, subStep := 0, readDone := false } := rfl

@[simp] theorem State.startReg_regs (op : Op) (reg : BitVec 8) (a b : Word) :
    (s.startReg op reg a b).regs = s.regs := rfl

@[simp] theorem State.startReg_dev (op : Op) (reg : BitVec 8) (a b : Word) :
    (s.startReg op reg a b).dev = s.dev := rfl

@[simp] theorem State.startReg_mem (op : Op) (reg : BitVec 8) (a b : Word) :
    (s.startReg op reg a b).mem = s.mem := rfl

@[simp] theorem State.startReg_busTrace (op : Op) (reg : BitVec 8) (a b : Word) :
    (s.startReg op reg a b).busTrace = s.busTrace := rfl

@[simp] theorem State.startReg_results (op : Op) (reg : BitVec 8) (a b : Word) :
    (s.startReg op reg a b).results = s.results := rfl

@[simp] theorem State.startReg_environment (op : Op) (reg : BitVec 8) (a b : Word) :
    (s.startReg op reg a b).environment = s.environment := rfl

@[simp] theorem State.startReg_answers (op : Op) (reg : BitVec 8) (a b : Word) :
    (s.startReg op reg a b).answers = s.answers := rfl

@[simp] theorem State.startReg_schedule (op : Op) (reg : BitVec 8) (a b : Word) :
    (s.startReg op reg a b).schedule = s.schedule := rfl

@[simp] theorem State.startReg_draws (op : Op) (reg : BitVec 8) (a b : Word) :
    (s.startReg op reg a b).draws = s.draws := rfl

@[simp] theorem State.markRead_cfg :
    (s.markRead).cfg = s.cfg := rfl

@[simp] theorem State.markRead_caller :
    (s.markRead).caller = s.caller := rfl

@[simp] theorem State.markRead_seq :
    (s.markRead).seq = { s.seq with readDone := true } := rfl

@[simp] theorem State.markRead_regs :
    (s.markRead).regs = s.regs := rfl

@[simp] theorem State.markRead_dev :
    (s.markRead).dev = s.dev := rfl

@[simp] theorem State.markRead_mem :
    (s.markRead).mem = s.mem := rfl

@[simp] theorem State.markRead_busTrace :
    (s.markRead).busTrace = s.busTrace := rfl

@[simp] theorem State.markRead_results :
    (s.markRead).results = s.results := rfl

@[simp] theorem State.markRead_environment :
    (s.markRead).environment = s.environment := rfl

@[simp] theorem State.markRead_answers :
    (s.markRead).answers = s.answers := rfl

@[simp] theorem State.markRead_schedule :
    (s.markRead).schedule = s.schedule := rfl

@[simp] theorem State.markRead_draws :
    (s.markRead).draws = s.draws := rfl

@[simp] theorem State.setSubStep_cfg (n : Fin 6) :
    (s.setSubStep n).cfg = s.cfg := rfl

@[simp] theorem State.setSubStep_caller (n : Fin 6) :
    (s.setSubStep n).caller = s.caller := rfl

@[simp] theorem State.setSubStep_seq (n : Fin 6) :
    (s.setSubStep n).seq = { s.seq with subStep := n } := rfl

@[simp] theorem State.setSubStep_regs (n : Fin 6) :
    (s.setSubStep n).regs = s.regs := rfl

@[simp] theorem State.setSubStep_dev (n : Fin 6) :
    (s.setSubStep n).dev = s.dev := rfl

@[simp] theorem State.setSubStep_mem (n : Fin 6) :
    (s.setSubStep n).mem = s.mem := rfl

@[simp] theorem State.setSubStep_busTrace (n : Fin 6) :
    (s.setSubStep n).busTrace = s.busTrace := rfl

@[simp] theorem State.setSubStep_results (n : Fin 6) :
    (s.setSubStep n).results = s.results := rfl

@[simp] theorem State.setSubStep_environment (n : Fin 6) :
    (s.setSubStep n).environment = s.environment := rfl

@[simp] theorem State.setSubStep_answers (n : Fin 6) :
    (s.setSubStep n).answers = s.answers := rfl

@[simp] theorem State.setSubStep_schedule (n : Fin 6) :
    (s.setSubStep n).schedule = s.schedule := rfl

@[simp] theorem State.setSubStep_draws (n : Fin 6) :
    (s.setSubStep n).draws = s.draws := rfl

@[simp] theorem State.setPhase_cfg (p : Phase) :
    (s.setPhase p).cfg = s.cfg := rfl

@[simp] theorem State.setPhase_caller (p : Phase) :
    (s.setPhase p).caller = s.caller := rfl

@[simp] theorem State.setPhase_seq (p : Phase) :
    (s.setPhase p).seq = { s.seq with phase := p } := rfl

@[simp] theorem State.setPhase_regs (p : Phase) :
    (s.setPhase p).regs = s.regs := rfl

@[simp] theorem State.setPhase_dev (p : Phase) :
    (s.setPhase p).dev = s.dev := rfl

@[simp] theorem State.setPhase_mem (p : Phase) :
    (s.setPhase p).mem = s.mem := rfl

@[simp] theorem State.setPhase_busTrace (p : Phase) :
    (s.setPhase p).busTrace = s.busTrace := rfl

@[simp] theorem State.setPhase_results (p : Phase) :
    (s.setPhase p).results = s.results := rfl

@[simp] theorem State.setPhase_environment (p : Phase) :
    (s.setPhase p).environment = s.environment := rfl

@[simp] theorem State.setPhase_answers (p : Phase) :
    (s.setPhase p).answers = s.answers := rfl

@[simp] theorem State.setPhase_schedule (p : Phase) :
    (s.setPhase p).schedule = s.schedule := rfl

@[simp] theorem State.setPhase_draws (p : Phase) :
    (s.setPhase p).draws = s.draws := rfl

@[simp] theorem State.setOffset_cfg (n : Word) :
    (s.setOffset n).cfg = s.cfg := rfl

@[simp] theorem State.setOffset_caller (n : Word) :
    (s.setOffset n).caller = s.caller := rfl

@[simp] theorem State.setOffset_seq (n : Word) :
    (s.setOffset n).seq = { s.seq with offset := n } := rfl

@[simp] theorem State.setOffset_regs (n : Word) :
    (s.setOffset n).regs = s.regs := rfl

@[simp] theorem State.setOffset_dev (n : Word) :
    (s.setOffset n).dev = s.dev := rfl

@[simp] theorem State.setOffset_mem (n : Word) :
    (s.setOffset n).mem = s.mem := rfl

@[simp] theorem State.setOffset_busTrace (n : Word) :
    (s.setOffset n).busTrace = s.busTrace := rfl

@[simp] theorem State.setOffset_results (n : Word) :
    (s.setOffset n).results = s.results := rfl

@[simp] theorem State.setOffset_environment (n : Word) :
    (s.setOffset n).environment = s.environment := rfl

@[simp] theorem State.setOffset_answers (n : Word) :
    (s.setOffset n).answers = s.answers := rfl

@[simp] theorem State.setOffset_schedule (n : Word) :
    (s.setOffset n).schedule = s.schedule := rfl

@[simp] theorem State.setOffset_draws (n : Word) :
    (s.setOffset n).draws = s.draws := rfl

@[simp] theorem State.setPolls_cfg (n : Nat) :
    (s.setPolls n).cfg = s.cfg := rfl

@[simp] theorem State.setPolls_caller (n : Nat) :
    (s.setPolls n).caller = s.caller := rfl

@[simp] theorem State.setPolls_seq (n : Nat) :
    (s.setPolls n).seq = { s.seq with polls := n } := rfl

@[simp] theorem State.setPolls_regs (n : Nat) :
    (s.setPolls n).regs = s.regs := rfl

@[simp] theorem State.setPolls_dev (n : Nat) :
    (s.setPolls n).dev = s.dev := rfl

@[simp] theorem State.setPolls_mem (n : Nat) :
    (s.setPolls n).mem = s.mem := rfl

@[simp] theorem State.setPolls_busTrace (n : Nat) :
    (s.setPolls n).busTrace = s.busTrace := rfl

@[simp] theorem State.setPolls_results (n : Nat) :
    (s.setPolls n).results = s.results := rfl

@[simp] theorem State.setPolls_environment (n : Nat) :
    (s.setPolls n).environment = s.environment := rfl

@[simp] theorem State.setPolls_answers (n : Nat) :
    (s.setPolls n).answers = s.answers := rfl

@[simp] theorem State.setPolls_schedule (n : Nat) :
    (s.setPolls n).schedule = s.schedule := rfl

@[simp] theorem State.setPolls_draws (n : Nat) :
    (s.setPolls n).draws = s.draws := rfl

@[simp] theorem State.callerStore_cfg (a : Nat) (v : Byte) :
    (s.callerStore a v).cfg = s.cfg := rfl

@[simp] theorem State.callerStore_caller (a : Nat) (v : Byte) :
    (s.callerStore a v).caller = s.caller := rfl

@[simp] theorem State.callerStore_seq (a : Nat) (v : Byte) :
    (s.callerStore a v).seq = s.seq := rfl

@[simp] theorem State.callerStore_regs (a : Nat) (v : Byte) :
    (s.callerStore a v).regs = s.regs := rfl

@[simp] theorem State.callerStore_dev (a : Nat) (v : Byte) :
    (s.callerStore a v).dev = s.dev := rfl

@[simp] theorem State.callerStore_mem (a : Nat) (v : Byte) :
    (s.callerStore a v).mem = Memory.write s.mem (a % 2 ^ s.cfg.addrWidth) v := rfl

@[simp] theorem State.callerStore_busTrace (a : Nat) (v : Byte) :
    (s.callerStore a v).busTrace = s.busTrace := rfl

@[simp] theorem State.callerStore_results (a : Nat) (v : Byte) :
    (s.callerStore a v).results = s.results := rfl

@[simp] theorem State.callerStore_environment (a : Nat) (v : Byte) :
    (s.callerStore a v).environment = s.environment := rfl

@[simp] theorem State.callerStore_answers (a : Nat) (v : Byte) :
    (s.callerStore a v).answers = s.answers := rfl

@[simp] theorem State.callerStore_schedule (a : Nat) (v : Byte) :
    (s.callerStore a v).schedule = s.schedule := rfl

@[simp] theorem State.callerStore_draws (a : Nat) (v : Byte) :
    (s.callerStore a v).draws = s.draws := rfl

@[simp] theorem State.withCommand_cfg (w : Command) :
    (s.withCommand w).cfg = s.cfg := rfl

@[simp] theorem State.withCommand_caller (w : Command) :
    (s.withCommand w).caller = .issue w :: s.caller := rfl

@[simp] theorem State.withCommand_seq (w : Command) :
    (s.withCommand w).seq = { s.seq with curOp := none, phase := .idle } := rfl

@[simp] theorem State.withCommand_regs (w : Command) :
    (s.withCommand w).regs = s.regs := rfl

@[simp] theorem State.withCommand_dev (w : Command) :
    (s.withCommand w).dev = s.dev := rfl

@[simp] theorem State.withCommand_mem (w : Command) :
    (s.withCommand w).mem = s.mem := rfl

@[simp] theorem State.withCommand_busTrace (w : Command) :
    (s.withCommand w).busTrace = s.busTrace := rfl

@[simp] theorem State.withCommand_results (w : Command) :
    (s.withCommand w).results = s.results := rfl

@[simp] theorem State.withCommand_environment (w : Command) :
    (s.withCommand w).environment = s.environment := rfl

@[simp] theorem State.withCommand_answers (w : Command) :
    (s.withCommand w).answers = s.answers := rfl

@[simp] theorem State.withCommand_schedule (w : Command) :
    (s.withCommand w).schedule = s.schedule := rfl

@[simp] theorem State.withCommand_draws (w : Command) :
    (s.withCommand w).draws = s.draws := rfl

@[simp] theorem State.afterRead_cfg (r : Reg) : (s.afterRead r).cfg = s.cfg := by
  unfold State.afterRead
  repeat' split
  all_goals rfl

@[simp] theorem State.afterRead_caller (r : Reg) : (s.afterRead r).caller = s.caller := by
  unfold State.afterRead
  repeat' split
  all_goals rfl

@[simp] theorem State.afterRead_seq (r : Reg) : (s.afterRead r).seq = s.seq := by
  unfold State.afterRead
  repeat' split
  all_goals rfl

@[simp] theorem State.afterRead_regs (r : Reg) : (s.afterRead r).regs = s.regs := by
  unfold State.afterRead
  repeat' split
  all_goals rfl

@[simp] theorem State.afterRead_mem (r : Reg) : (s.afterRead r).mem = s.mem := by
  unfold State.afterRead
  repeat' split
  all_goals rfl

@[simp] theorem State.afterRead_busTrace (r : Reg) : (s.afterRead r).busTrace = s.busTrace := by
  unfold State.afterRead
  repeat' split
  all_goals rfl

@[simp] theorem State.afterRead_results (r : Reg) : (s.afterRead r).results = s.results := by
  unfold State.afterRead
  repeat' split
  all_goals rfl

@[simp] theorem State.afterRead_environment (r : Reg) : (s.afterRead r).environment = s.environment := by
  unfold State.afterRead
  repeat' split
  all_goals rfl

@[simp] theorem State.afterRead_schedule (r : Reg) : (s.afterRead r).schedule = s.schedule := by
  unfold State.afterRead
  repeat' split
  all_goals rfl

@[simp] theorem State.busRead_cfg (r : Reg) : (s.busRead r).cfg = s.cfg := State.afterRead_cfg s r

@[simp] theorem State.busRead_caller (r : Reg) : (s.busRead r).caller = s.caller := State.afterRead_caller s r

@[simp] theorem State.busRead_regs (r : Reg) : (s.busRead r).regs = s.regs := State.afterRead_regs s r

@[simp] theorem State.busRead_mem (r : Reg) : (s.busRead r).mem = s.mem := State.afterRead_mem s r

@[simp] theorem State.busRead_results (r : Reg) : (s.busRead r).results = s.results := State.afterRead_results s r

@[simp] theorem State.busRead_environment (r : Reg) : (s.busRead r).environment = s.environment := State.afterRead_environment s r

@[simp] theorem State.busRead_schedule (r : Reg) : (s.busRead r).schedule = s.schedule := State.afterRead_schedule s r

@[simp] theorem State.busRead_seq (r : Reg) : (s.busRead r).seq = { s.seq with tmp := s.readValue r } := rfl

@[simp] theorem State.busRead_busTrace (r : Reg) :
    (s.busRead r).busTrace = s.busTrace ++ [.read r (s.readValue r)] := rfl

@[simp] theorem State.busRead_dev (r : Reg) : (s.busRead r).dev = (s.afterRead r).dev := rfl

@[simp] theorem State.busRead_answers (r : Reg) : (s.busRead r).answers = (s.afterRead r).answers := rfl

@[simp] theorem State.busRead_draws (r : Reg) : (s.busRead r).draws = (s.afterRead r).draws := rfl

@[simp] theorem State.peripheralMoves_cfg : s.peripheralMoves.cfg = s.cfg := by
  unfold State.peripheralMoves
  repeat' split
  all_goals rfl

@[simp] theorem State.peripheralMoves_caller : s.peripheralMoves.caller = s.caller := by
  unfold State.peripheralMoves
  repeat' split
  all_goals rfl

@[simp] theorem State.peripheralMoves_seq : s.peripheralMoves.seq = s.seq := by
  unfold State.peripheralMoves
  repeat' split
  all_goals rfl

@[simp] theorem State.peripheralMoves_regs : s.peripheralMoves.regs = s.regs := by
  unfold State.peripheralMoves
  repeat' split
  all_goals rfl

@[simp] theorem State.peripheralMoves_mem : s.peripheralMoves.mem = s.mem := by
  unfold State.peripheralMoves
  repeat' split
  all_goals rfl

@[simp] theorem State.peripheralMoves_busTrace : s.peripheralMoves.busTrace = s.busTrace := by
  unfold State.peripheralMoves
  repeat' split
  all_goals rfl

@[simp] theorem State.peripheralMoves_results : s.peripheralMoves.results = s.results := by
  unfold State.peripheralMoves
  repeat' split
  all_goals rfl

@[simp] theorem State.peripheralMoves_environment : s.peripheralMoves.environment = s.environment := by
  unfold State.peripheralMoves
  repeat' split
  all_goals rfl

@[simp] theorem State.peripheralMoves_answers : s.peripheralMoves.answers = s.answers := by
  unfold State.peripheralMoves
  repeat' split
  all_goals rfl

end Sys2Proof.Machine
end

