-- ==== Sys2Proof/Laws/Effect.lean ====
section
/-! SUPPORT. What one step can do, said once: the spec lemmas of the shared operations, and `exec_effect`, which lists the
four shapes of the next state of any operation. The statements about every step follow from it. -/

namespace Sys2Proof.Machine

/-- Latches play no part in a bus read but for `tmp`. -/
theorem State.busRead_withSeq (s : State) (q : Latches) (r : Reg) :
    ({ s with seq := q } : State).busRead r = { s.busRead r with seq := { q with tmp := s.readValue r } } := by
  unfold State.busRead State.afterRead State.readValue
  dsimp only
  repeat' split
  all_goals simp_all

theorem State.readValue_withSeq (s : State) (q : Latches) (r : Reg) :
    ({ s with seq := q } : State).readValue r = s.readValue r := rfl

/-- `whenIdle` answers a next state only when the accessor is idle. -/
theorem State.whenIdle_next {s t : State} {a : Answer} (h : s.whenIdle a = .next t) :
    s.seq.curOp = none ∧ a = .next t := by
  unfold State.whenIdle at h
  split at h
  · exact ⟨‹_›, h⟩
  · cases h

/-- `firstOrNext` answers its first answer when the accessor is idle and its next one while the operation runs. -/
theorem State.firstOrNext_next {s t : State} {op : Op} {a b : Answer} (h : s.firstOrNext op a b = .next t) :
    (s.seq.curOp = none ∧ a = .next t) ∨ (s.seq.curOp = some op ∧ b = .next t) := by
  unfold State.firstOrNext at h
  split at h
  · exact .inl ⟨‹_›, h⟩
  · rename_i cur hcur
    split at h
    · rename_i he
      exact .inr ⟨by rw [hcur, he], h⟩
    · cases h

theorem State.whenIdle_idle {s : State} {a : Answer} (h : s.idle) : s.whenIdle a = a := by
  unfold State.whenIdle
  rw [show s.seq.curOp = none from h]

theorem State.firstOrNext_idle {s : State} {op : Op} {a b : Answer} (h : s.idle) : s.firstOrNext op a b = a := by
  unfold State.firstOrNext
  rw [show s.seq.curOp = none from h]

theorem State.firstOrNext_running {s : State} {op : Op} {a b : Answer} (h : s.seq.curOp = some op) :
    s.firstOrNext op a b = b := by
  unfold State.firstOrNext
  rw [h]
  exact if_pos rfl

/-- A register that a writing operation reaches is writable (R123). -/
theorem writable_of_writeTarget {id : BitVec 8} {r : Reg} (h : writeTarget id = .ok r) : writable r = true := by
  unfold writeTarget at h
  split at h
  · cases h
  · split at h
    · cases h
      assumption
    · cases h

/-- The result words after a step: as before, or one more, with a value only if it says `Ok` (R96). -/
def resultsGrow (s : State) (rs : List ResultWord) : Prop :=
  rs = s.results ∨ ∃ e v, (e = Ending.ok ∨ v = 0) ∧ rs = s.results ++ [resultWord e v]

theorem resultsGrow_same (s : State) : resultsGrow s s.results := .inl rfl

theorem resultsGrow_ok (s : State) (v : Word) : resultsGrow s (s.results ++ [resultWord .ok v]) :=
  .inr ⟨.ok, v, .inl rfl, rfl⟩

theorem resultsGrow_raise (s : State) (e : Ending) : resultsGrow s (s.results ++ [resultWord e 0]) :=
  .inr ⟨e, 0, .inr rfl, rfl⟩

/-- The four shapes of the next state of an operation: no transaction, one read, one allowed write, or one read of the
receive FIFO with the store of its byte into the frame buffer. -/
def stepShape (s t : State) : Prop :=
  ∃ q rs, resultsGrow s rs ∧
    (t = { s with seq := q, results := rs } ∨
      (∃ r, t = { s.busRead r with seq := q, results := rs }) ∨
      (∃ r v, writable r = true ∧ t = { s.busWrite r v with seq := q, results := rs }) ∨
      (s.seq.curOp = some .recvFrame ∧ s.seq.phase = .draining ∧ s.seq.offset ≠ s.seq.sizeL ∧
        fifoEmptyBit s.cfg.literals (s.readValue .rxfifoData) = false ∧
        t = { (s.busRead .rxfifoData).memWrite (s.bufferAddress s.seq.offset)
                (fifoByte s.cfg.literals (s.readValue .rxfifoData)) with seq := q, results := rs }))

theorem stepShape_quiet (s : State) (q : Latches) (rs : List ResultWord) (h : resultsGrow s rs) :
    stepShape s { s with seq := q, results := rs } := ⟨q, rs, h, .inl rfl⟩

theorem stepShape_raise (s : State) (e : Ending) : stepShape s (s.raise e) :=
  ⟨_, _, resultsGrow_raise s e, .inl rfl⟩

theorem stepShape_ret (s : State) (v : Word) : stepShape s (s.ret v) := ⟨_, _, resultsGrow_ok s v, .inl rfl⟩

theorem stepShape_write (s : State) (r : Reg) (v : Word) (q : Latches) (rs : List ResultWord) (hr : writable r = true)
    (h : resultsGrow s rs) : stepShape s { s.busWrite r v with seq := q, results := rs } :=
  ⟨q, rs, h, .inr (.inr (.inl ⟨r, v, hr, rfl⟩))⟩

theorem stepShape_read (s : State) (r : Reg) (q : Latches) (rs : List ResultWord) (h : resultsGrow s rs) :
    stepShape s { s.busRead r with seq := q, results := rs } := ⟨q, rs, h, .inr (.inl ⟨r, rfl⟩)⟩

theorem readOperation_shape {s t : State} {op : Op} {reg : BitVec 8} {a : Word} {f : Word → Word}
    (h : s.readOperation op reg a f = .next t) : stepShape s t := by
  obtain ⟨-, h⟩ := State.whenIdle_next h
  split at h
  · cases h
    exact stepShape_raise s _
  · rename_i r _
    cases h
    have e := State.busRead_withSeq s { s.seq with
      curOp := some op, opndReg := reg, opndA := a, opndB := 0, subStep := 0, readDone := false } r
    unfold State.startReg
    rw [e]
    refine stepShape_read s r _ _ ?_
    rw [show (State.results _) = s.results from State.busRead_results s r]
    exact resultsGrow_ok s _

theorem readModifyWrite_shape {s t : State} {op : Op} {reg : BitVec 8} {a b : Word} {f : Word → Word}
    (h : s.readModifyWrite op reg a b f = .next t) : stepShape s t := by
  unfold State.readModifyWrite at h
  split at h
  · obtain ⟨-, h⟩ := State.whenIdle_next h
    cases h
    exact stepShape_raise s _
  · rename_i r hr
    obtain ⟨-, h⟩ | ⟨-, h⟩ := State.firstOrNext_next h
    · cases h
      have e := State.busRead_withSeq s { s.seq with
        curOp := some op, opndReg := reg, opndA := a, opndB := b, subStep := 0, readDone := false } r
      unfold State.startReg State.markRead
      rw [e]
      exact stepShape_read s r _ _ (.inl (State.busRead_results s r))
    · split at h
      · cases h
        exact stepShape_write s r _ _ _ (writable_of_writeTarget hr) (resultsGrow_ok s 0)
      · cases h

theorem regWrite_shape {s t : State} {reg : BitVec 8} {v : Word} (h : execRegWrite reg v s = .next t) :
    stepShape s t := by
  obtain ⟨-, h⟩ := State.whenIdle_next h
  split at h
  · cases h
    exact stepShape_raise s _
  · rename_i r hr
    cases h
    exact stepShape_write s r v _ _ (writable_of_writeTarget hr) (resultsGrow_ok s 0)

theorem encoding_shape {s t : State} {op : Op} {a b v : Word} (h : s.encodingResult op a b v = .next t) :
    stepShape s t := by
  cases h
  exact stepShape_quiet s _ _ (resultsGrow_ok s v)

theorem initStep_shape {s t : State} (h : s.initStep = .next t) : stepShape s t := by
  unfold State.initStep at h
  split at h <;> cases h
  · exact stepShape_write s .rxip _ _ _ rfl (resultsGrow_same s)
  · exact stepShape_write s .txip _ _ _ rfl (resultsGrow_same s)
  · exact stepShape_write s .rxport _ _ _ rfl (resultsGrow_same s)
  · exact stepShape_write s .txport _ _ _ rfl (resultsGrow_same s)
  · exact stepShape_write s .ctrl _ _ _ rfl (resultsGrow_same s)
  · exact stepShape_ret s 0

theorem configureStep_shape {s t : State} {r : Reg} {c : Word} {f : State → State} (hr : writable r = true)
    (hf : ∀ u, ∃ q, f u = { u with seq := q }) (h : s.configureStep r c f = .next t) : stepShape s t := by
  unfold State.configureStep at h
  split at h <;> cases h
  · exact stepShape_write s r _ _ _ hr (resultsGrow_same s)
  · obtain ⟨q, hq⟩ := hf ((s.busWrite .ctrl c).setSubStep 2)
    rw [hq]
    exact stepShape_write s .ctrl _ _ _ rfl (resultsGrow_same s)

theorem pollStep_shape {s t : State} {r : Reg} {p : Word → Bool} {e : Ending} {f : State → State}
    (hf : ∀ u, ∃ q, f u = { u with seq := q }) (h : s.pollStep r p e f = .next t) : stepShape s t := by
  unfold State.pollStep at h
  split at h
  · cases h
    exact stepShape_raise s e
  · dsimp only at h
    split at h <;> cases h
    · obtain ⟨q, hq⟩ := hf ((s.busRead r).setPolls (s.seq.polls + 1))
      rw [hq]
      exact stepShape_read s r _ _ (.inl (State.busRead_results s r))
    · exact stepShape_read s r _ _ (.inl (State.busRead_results s r))

theorem drainStep_shape {s t : State} (hop : s.seq.curOp = some .recvFrame) (hp : s.seq.phase = .draining)
    (h : s.drainStep = .next t) : stepShape s t := by
  unfold State.drainStep at h
  split at h
  · cases h
    exact stepShape_quiet s _ _ (resultsGrow_same s)
  · rename_i hne
    dsimp only at h
    split at h
    · split at h <;> cases h
      · refine stepShape_read s .rxfifoData _ _ ?_
        rw [State.setPolls_results, State.busRead_results]
        exact resultsGrow_raise s .timeoutDraining
      · exact stepShape_read s .rxfifoData _ _ (.inl (State.busRead_results s _))
    · rename_i hempty
      cases h
      refine ⟨{ s.seq with tmp := s.readValue .rxfifoData, offset := s.seq.offset + 1, polls := 0 }, s.results,
        resultsGrow_same s, .inr (.inr (.inr ⟨hop, hp, hne, by simpa using hempty, ?_⟩))⟩
      have hr : (s.busRead .rxfifoData).results = s.results := State.busRead_results s .rxfifoData
      rw [← hr]
      rfl

theorem fillStep_shape {s t : State} (h : s.fillStep = .next t) : stepShape s t := by
  unfold State.fillStep at h
  split at h <;> cases h
  · exact stepShape_quiet s _ _ (resultsGrow_same s)
  · exact stepShape_write s .txfifoData _ _ _ rfl (resultsGrow_same s)

theorem acceptTransfer_shape {s t : State} {op : Op} {a b : Word} (h : s.acceptTransfer op a b = .next t) :
    stepShape s t := by
  unfold State.acceptTransfer at h
  split at h <;> cases h
  · exact stepShape_raise s _
  · exact stepShape_quiet s _ _ (resultsGrow_same s)

theorem recvStep_shape {s t : State} (hop : s.seq.curOp = some .recvFrame) (h : s.recvStep = .next t) :
    stepShape s t := by
  unfold State.recvStep at h
  split at h
  · exact configureStep_shape rfl (fun u => ⟨_, rfl⟩) h
  · exact pollStep_shape (fun u => ⟨_, rfl⟩) h
  · exact drainStep_shape hop ‹_› h
  · cases h
    exact stepShape_ret s 0
  all_goals cases h

theorem sendStep_shape {s t : State} (h : s.sendStep = .next t) : stepShape s t := by
  unfold State.sendStep at h
  split at h
  · exact configureStep_shape rfl (fun u => ⟨_, rfl⟩) h
  · exact fillStep_shape h
  · exact pollStep_shape (fun u => ⟨_, rfl⟩) h
  · cases h
    exact stepShape_ret s 0
  all_goals cases h

/-- Whatever operation runs, its next state has one of the four shapes. -/
theorem exec_shape {i : Instr} {s t : State} (h : exec i s = .next t) : stepShape s t := by
  cases i with
  | regRead reg =>
    simp only [exec, execRegRead] at h
    exact readOperation_shape h
  | regWrite reg v => exact regWrite_shape h
  | setBits reg m =>
    simp only [exec, execSetBits] at h
    exact readModifyWrite_shape h
  | clearBits reg m =>
    simp only [exec, execClearBits] at h
    exact readModifyWrite_shape h
  | readBits reg m =>
    simp only [exec, execReadBits] at h
    exact readOperation_shape h
  | writeBits reg c m =>
    simp only [exec, execWriteBits] at h
    exact readModifyWrite_shape h
  | parseIpv4 a b =>
    obtain ⟨-, h⟩ := State.whenIdle_next h
    split at h
    · cases h
      exact stepShape_raise s _
    · exact encoding_shape h
  | hton16 v => exact encoding_shape (State.whenIdle_next h).2
  | hton32 v => exact encoding_shape (State.whenIdle_next h).2
  | init =>
    obtain ⟨-, h⟩ | ⟨-, h⟩ := State.firstOrNext_next h
    · cases h
      exact stepShape_write s .rxip _ _ _ rfl (resultsGrow_same s)
    · exact initStep_shape h
  | recvFrame a b =>
    obtain ⟨-, h⟩ | ⟨hop, h⟩ := State.firstOrNext_next h
    · exact acceptTransfer_shape h
    · exact recvStep_shape hop h
  | sendFrame a b =>
    obtain ⟨-, h⟩ | ⟨-, h⟩ := State.firstOrNext_next h
    · exact acceptTransfer_shape h
    · exact sendStep_shape h

end Sys2Proof.Machine
end

