-- ==== Sys2Proof/Laws/Encoding.lean ====
section
/-! SUPPORT. The fields of a command word (30_encoding.md R91): each field of `commandWord` reads back, and a word is put
together again from its four fields. -/

namespace Sys2Proof

/-- The number an appended vector stands for. -/
theorem append_toNat {n m : Nat} (x : BitVec n) (y : BitVec m) : (x ++ y).toNat = x.toNat * 2 ^ m + y.toNat := by
  rw [BitVec.toNat_append, ← Nat.shiftLeft_add_eq_or_of_lt y.isLt, Nat.shiftLeft_eq]

/-- The number a command word stands for. -/
theorem commandWord_toNat (op reg : Byte) (a b : Word) :
    (commandWord op reg a b).toNat =
      ((op.toNat * 2 ^ 8 + reg.toNat) * 2 ^ 32 + a.toNat) * 2 ^ 32 + b.toNat := by
  unfold commandWord
  rw [append_toNat, append_toNat, append_toNat]

theorem extract_toNat {n : Nat} (x : BitVec n) (i k : Nat) : (x.extractLsb' i k).toNat = x.toNat / 2 ^ i % 2 ^ k := by
  rw [BitVec.extractLsb'_toNat, Nat.shiftRight_eq_div_pow]

@[simp] theorem opField_commandWord (op reg : Byte) (a b : Word) : (commandWord op reg a b).opField = op := by
  apply BitVec.eq_of_toNat_eq
  unfold Command.opField
  rw [extract_toNat, commandWord_toNat]
  have h1 := reg.isLt; have h2 := a.isLt; have h3 := b.isLt; have h4 := op.isLt
  omega

@[simp] theorem regField_commandWord (op reg : Byte) (a b : Word) : (commandWord op reg a b).regField = reg := by
  apply BitVec.eq_of_toNat_eq
  unfold Command.regField
  rw [extract_toNat, commandWord_toNat]
  have h1 := reg.isLt; have h2 := a.isLt; have h3 := b.isLt; have h4 := op.isLt
  omega

@[simp] theorem aField_commandWord (op reg : Byte) (a b : Word) : (commandWord op reg a b).aField = a := by
  apply BitVec.eq_of_toNat_eq
  unfold Command.aField
  rw [extract_toNat, commandWord_toNat]
  have h1 := reg.isLt; have h2 := a.isLt; have h3 := b.isLt; have h4 := op.isLt
  omega

@[simp] theorem bField_commandWord (op reg : Byte) (a b : Word) : (commandWord op reg a b).bField = b := by
  apply BitVec.eq_of_toNat_eq
  unfold Command.bField
  rw [extract_toNat, commandWord_toNat]
  have h1 := reg.isLt; have h2 := a.isLt; have h3 := b.isLt; have h4 := op.isLt
  omega

/-- A word is its four fields put together. -/
theorem commandWord_fields (w : Command) : commandWord w.opField w.regField w.aField w.bField = w := by
  apply BitVec.eq_of_toNat_eq
  rw [commandWord_toNat]
  unfold Command.opField Command.regField Command.aField Command.bField
  rw [extract_toNat, extract_toNat, extract_toNat, extract_toNat]
  have h := w.isLt
  omega

/-- Masking a command word masks its fields. -/
theorem commandWord_and (op reg op' reg' : Byte) (a b a' b' : Word) :
    commandWord op reg a b &&& commandWord op' reg' a' b' =
      commandWord (op &&& op') (reg &&& reg') (a &&& a') (b &&& b') := by
  unfold commandWord
  rw [BitVec.and_append, BitVec.and_append, BitVec.and_append]

/-- Two command words are equal when their fields are. -/
theorem commandWord_inj (op reg op' reg' : Byte) (a b a' b' : Word) :
    commandWord op reg a b = commandWord op' reg' a' b' ↔ op = op' ∧ reg = reg' ∧ a = a' ∧ b = b' := by
  constructor
  · intro h
    exact ⟨by simpa using congrArg Command.opField h, by simpa using congrArg Command.regField h,
      by simpa using congrArg Command.aField h, by simpa using congrArg Command.bField h⟩
  · rintro ⟨rfl, rfl, rfl, rfl⟩
    rfl

/-- A row selects a word exactly when the `op` byte is the row's and the masked bits of the other fields are zero. -/
theorem MapRow.selects_iff (r : MapRow) (w : Command) :
    r.selects w = true ↔
      w.opField = r.code ∧ w.regField &&& r.regMask = 0 ∧ w.aField &&& r.aMask = 0 ∧ w.bField &&& r.bMask = 0 := by
  unfold MapRow.selects MapRow.maskWord MapRow.matchWord
  rw [beq_iff_eq]
  conv_lhs => rw [← commandWord_fields w, commandWord_and, commandWord_inj]
  rw [show w.opField &&& 0xFF = w.opField from by simpa using BitVec.and_allOnes (x := w.opField)]

/-- The upper half of a widened port is zero. -/
theorem setWidth_half_and (v : Half) : (v.setWidth 32 : Word) &&& 0xFFFF0000 = 0 := by
  rw [show (0xFFFF0000 : Word) = (0xFFFF : Half) ++ (0 : Half) from rfl,
    show (v.setWidth 32 : Word) = (0 : Half) ++ v from by
      apply BitVec.eq_of_toNat_eq
      rw [append_toNat, BitVec.toNat_setWidth]
      have := v.isLt
      simp
      omega,
    BitVec.and_append]
  simp

/-- A word is its two halves put together. -/
theorem word_halves (a : Word) : (a.extractLsb' 16 16 ++ a.extractLsb' 0 16 : Word) = a := by
  apply BitVec.eq_of_toNat_eq
  rw [append_toNat, extract_toNat, extract_toNat]
  have := a.isLt
  omega

/-- A word whose upper half is zero is its lower half, widened. -/
theorem setWidth_half_of_and (a : Word) (h : a &&& 0xFFFF0000 = 0) : ((a.setWidth 16).setWidth 32 : Word) = a := by
  rw [← word_halves a, show (0xFFFF0000 : Word) = (0xFFFF : Half) ++ (0 : Half) from rfl, BitVec.and_append,
    show a.extractLsb' 16 16 &&& (0xFFFF : Half) = a.extractLsb' 16 16 from by
      simpa using BitVec.and_allOnes (x := a.extractLsb' 16 16)] at h
  have h' := congrArg BitVec.toNat h
  rw [append_toNat, extract_toNat] at h'
  apply BitVec.eq_of_toNat_eq
  rw [BitVec.toNat_setWidth, BitVec.toNat_setWidth]
  have := a.isLt
  rw [show (0 : Word).toNat = 0 from rfl] at h'
  omega

end Sys2Proof
end

