-- ==== Sys2Proof/Laws/Flags.lean ====
section
/-! SUPPORT. What each condition bit is, with the literals the spec gives, in terms of the bits of the value read (42_frame_transfer_engine.md R181, R184,
R194). -/

namespace Sys2Proof.Machine

/-- Bit 0 of a read of `RX_STATUS` alone decides. -/
theorem rxReadyBit_eq (v : Word) : rxReadyBit literals v = v.getLsbD 0 := by
  unfold rxReadyBit
  rw [Bool.eq_iff_iff, bne_iff_ne]
  constructor
  · intro h
    by_contra hb
    refine h (BitVec.eq_of_getLsbD_eq fun i hi => ?_)
    interval_cases i <;> simp_all [literals]
  · intro hb h
    have h0 : (v.getLsbD 0 && true) = false := by
      rw [← show literals.rxReady.getLsbD 0 = true from rfl, ← BitVec.getLsbD_and, h]
      rfl
    rw [hb] at h0
    cases h0

/-- Bit 31 of a read of `RXFIFO_DATA` alone decides. -/
theorem fifoEmptyBit_eq (v : Word) : fifoEmptyBit literals v = v.getLsbD 31 := by
  unfold fifoEmptyBit
  rw [Bool.eq_iff_iff, bne_iff_ne]
  constructor
  · intro h
    by_contra hb
    refine h (BitVec.eq_of_getLsbD_eq fun i hi => ?_)
    interval_cases i <;> simp_all [literals]
  · intro hb h
    have h0 : (v.getLsbD 31 && true) = false := by
      rw [← show literals.rxfifoEmpty.getLsbD 31 = true from rfl, ← BitVec.getLsbD_and, h]
      rfl
    rw [hb] at h0
    cases h0

/-- The data byte is the low byte. -/
theorem fifoByte_eq (v : Word) : fifoByte literals v = v.extractLsb' 0 8 := by
  unfold fifoByte
  refine BitVec.eq_of_getLsbD_eq fun i hi => ?_
  interval_cases i <;> simp [literals]

/-- The transmit FIFO is drained exactly when all 32 bits are zero. -/
theorem txDrained_iff (v : Word) : txDrained v = true ↔ v = 0 := beq_iff_eq

end Sys2Proof.Machine
end

