-- ==== Sys2Proof/Laws/Operations.lean ====
section
/-! SUPPORT. The spec lemmas of the shared operations: which operation each arm of `exec` is, what a step does on an idle and
on a busy accessor, what a refusal leaves behind, and what the first and second half of a register operation answer. -/

namespace Sys2Proof.Machine

/-! ## The arms of `exec` -/

theorem exec_regRead (s : State) (reg : BitVec 8) :
    exec (.regRead reg) s = s.readOperation .regRead reg 0 id := rfl

theorem exec_readBits (s : State) (reg : BitVec 8) (m : Word) :
    exec (.readBits reg m) s = s.readOperation .readBits reg m (fun v => readMask v m) := rfl

theorem exec_setBits (s : State) (reg : BitVec 8) (m : Word) :
    exec (.setBits reg m) s = s.readModifyWrite .setBits reg m 0 (fun v => setMask v m) := rfl

theorem exec_clearBits (s : State) (reg : BitVec 8) (m : Word) :
    exec (.clearBits reg m) s = s.readModifyWrite .clearBits reg m 0 (fun v => clearMask v m) := rfl

theorem exec_writeBits (s : State) (reg : BitVec 8) (c m : Word) :
    exec (.writeBits reg c m) s = s.readModifyWrite .writeBits reg c m (fun v => writeMask v c m) := rfl

theorem exec_recv_running {s : State} {a b : Word} (h : s.seq.curOp = some .recvFrame) :
    exec (.recvFrame a b) s = s.recvStep := State.firstOrNext_running h

theorem exec_send_running {s : State} {a b : Word} (h : s.seq.curOp = some .sendFrame) :
    exec (.sendFrame a b) s = s.sendStep := State.firstOrNext_running h

theorem exec_init_running {s : State} (h : s.seq.curOp = some .init) : exec .init s = s.initStep :=
  State.firstOrNext_running h

theorem exec_recv_idle {s : State} {a b : Word} (h : s.idle) :
    exec (.recvFrame a b) s = s.acceptTransfer .recvFrame a b := State.firstOrNext_idle h

theorem exec_send_idle {s : State} {a b : Word} (h : s.idle) :
    exec (.sendFrame a b) s = s.acceptTransfer .sendFrame a b := State.firstOrNext_idle h

/-- An operation built from fields has the name it was built with. -/
@[simp] theorem Instr.ofFields_op (op : Op) (reg : BitVec 8) (a b : Word) : (Instr.ofFields op reg a b).op = op := by
  cases op <;> rfl

/-! ## The step -/

/-- While an operation is in progress the step is its next step. -/
theorem step_running {s : State} {op : Op} (h : s.seq.curOp = some op) :
    step s = exec (Instr.ofFields op s.seq.opndReg s.seq.opndA s.seq.opndB) s.peripheralMoves := by
  unfold step State.accessorStep
  rw [show s.peripheralMoves.seq.curOp = some op from by rw [State.peripheralMoves_seq]; exact h]
  unfold State.currentInstr
  simp only [State.peripheralMoves_seq]

/-- On an idle accessor the step takes the caller's next action. -/
theorem step_idle {s : State} (h : s.idle) : step s = s.peripheralMoves.idleStep := by
  unfold step State.accessorStep
  rw [show s.peripheralMoves.seq.curOp = none from by rw [State.peripheralMoves_seq]; exact h]

/-- In the unconstrained environment nothing comes before the accessor step. -/
theorem peripheralMoves_unconstrained {s : State} (h : s.environment = .unconstrained) : s.peripheralMoves = s := by
  unfold State.peripheralMoves
  rw [h]

/-- `k + 1` steps begin with one. -/
theorem run_succ (k : Nat) {s t : State} (h : step s = .next t) : run (k + 1) s = run k t := by
  simp only [run, Host.Core.run]
  rw [show Sys2Proof.core.step s = .next t from h]

@[simp] theorem run_zero (s : State) : run 0 s = .next s := rfl

/-- Steps one after the other add up. -/
theorem run_add (j : Nat) (k : Nat) {s t : State} (h : run j s = .next t) : run (j + k) s = run k t := by
  induction j generalizing s with
  | zero =>
    cases h
    rw [Nat.zero_add]
  | succ j ih =>
    simp only [run, Host.Core.run] at h
    split at h
    · rename_i s' hs
      rw [Nat.add_right_comm, run_succ (j + k) hs]
      exact ih h
    · cases h
    · cases h

/-! ## Endings -/

/-- Raising an outcome leaves everything but the accessor's own idle state and the result word as it was. -/
theorem refused_raise (s : State) (e : Ending) : refusedWith e s (s.raise e) := by
  refine ⟨⟨rfl, rfl, ?_⟩, ⟨rfl, rfl, rfl, rfl, rfl⟩, fun a => rfl, ⟨rfl, rfl, rfl, rfl⟩, ⟨rfl, rfl, rfl, rfl⟩⟩
  simp [resultWord]

/-- A result word read back: its value. -/
theorem resultWord_value (e : Ending) (v : Word) : (resultWord e v).extractLsb' 0 32 = v := by
  apply BitVec.eq_of_toNat_eq
  unfold resultWord
  rw [extract_toNat, append_toNat]
  have h1 := v.isLt; have h2 := e.code.isLt
  omega

/-- A result word read back: its code. -/
theorem resultWord_code (e : Ending) (v : Word) : (resultWord e v).extractLsb' 32 8 = e.code := by
  apply BitVec.eq_of_toNat_eq
  unfold resultWord
  rw [extract_toNat, append_toNat]
  have h1 := v.isLt; have h2 := e.code.isLt
  omega

/-- A result word with a value only if it says `Ok` is legal. -/
theorem resultLegal_word (e : Ending) (v : Word) (h : e = .ok ∨ v = 0) : resultLegal (resultWord e v) = true := by
  unfold resultLegal
  rw [resultWord_value, resultWord_code]
  rcases h with rfl | rfl
  · rfl
  · cases e <;> rfl

/-! ## Register operations -/

theorem readTarget_named {reg : BitVec 8} {r : Reg} (h : regOfId reg = some r) : readTarget reg = .ok r := by
  unfold readTarget
  rw [h]

theorem writeTarget_named {reg : BitVec 8} {r : Reg} (h : regOfId reg = some r) (hw : writable r = true) :
    writeTarget reg = .ok r := by
  unfold writeTarget
  rw [readTarget_named h]
  simp [hw]

theorem readTarget_unknown {reg : BitVec 8} (h : 16 ≤ reg.toNat) : readTarget reg = .error .illegalCommand := by
  have hn : regOfId reg = none := by
    unfold regOfId
    split <;> first | omega | rfl
  unfold readTarget
  rw [hn]
  simp
  omega

/-- The read of an operation that has just been latched. -/
theorem State.busRead_startReg (s : State) (op : Op) (reg : BitVec 8) (a b : Word) (r : Reg) :
    (s.startReg op reg a b).busRead r =
      { s.busRead r with
        seq := { s.seq with
          curOp := some op, opndReg := reg, opndA := a, opndB := b, subStep := 0, readDone := false,
          tmp := s.readValue r } } :=
  State.busRead_withSeq s _ r

theorem State.readOperation_ok {s : State} {op : Op} {reg : BitVec 8} {a : Word} {f : Word → Word} {r : Reg}
    (hi : s.idle) (hr : readTarget reg = .ok r) :
    s.readOperation op reg a f = .next (((s.startReg op reg a 0).busRead r).ret (f (s.readValue r))) := by
  unfold State.readOperation
  rw [State.whenIdle_idle hi, hr]
  rfl

theorem State.readModifyWrite_first {s : State} {op : Op} {reg : BitVec 8} {a b : Word} {f : Word → Word} {r : Reg}
    (hi : s.idle) (hr : writeTarget reg = .ok r) :
    s.readModifyWrite op reg a b f = .next ((s.startReg op reg a b).busRead r).markRead := by
  unfold State.readModifyWrite
  rw [hr]
  exact State.firstOrNext_idle hi

theorem State.readModifyWrite_second {s : State} {op : Op} {reg : BitVec 8} {a b : Word} {f : Word → Word} {r : Reg}
    (hop : s.seq.curOp = some op) (hd : s.seq.readDone = true) (hr : writeTarget reg = .ok r) :
    s.readModifyWrite op reg a b f = .next ((s.busWrite r (f s.seq.tmp)).ret 0) := by
  unfold State.readModifyWrite
  rw [hr]
  simp only [State.firstOrNext_running hop, hd, if_true]

/-! ## Poll loops and `Draining` -/

/-- With the literals the spec gives, bit 0 alone says that receive data is ready. -/
theorem State.rxReadyBit_spec {s : State} (h : s.specLiterals) (v : Word) :
    rxReadyBit s.cfg.literals v = v.getLsbD 0 := by rw [h, rxReadyBit_eq]

/-- With the literals the spec gives, bit 31 alone says that the receive FIFO was empty. -/
theorem State.fifoEmptyBit_spec {s : State} (h : s.specLiterals) (v : Word) :
    fifoEmptyBit s.cfg.literals v = v.getLsbD 31 := by rw [h, fifoEmptyBit_eq]

/-- With the literals the spec gives, the data byte is the low byte. -/
theorem State.fifoByte_spec {s : State} (h : s.specLiterals) (v : Word) :
    fifoByte s.cfg.literals v = v.extractLsb' 0 8 := by rw [h, fifoByte_eq]

/-- The value a bus read returns stands in `tmp`. -/
theorem State.busRead_tmp (s : State) (r : Reg) : (s.busRead r).seq.tmp = s.readValue r := rfl

theorem State.setPolls_tmp (s : State) (n : Nat) : (s.setPolls n).seq.tmp = s.seq.tmp := rfl

/-- A poll loop that has used up its limit ends without a read. -/
theorem State.pollStep_exhausted {s : State} {r : Reg} {p : Word → Bool} {e : Ending} {f : State → State}
    (hl : s.cfg.pollLimit = some s.seq.polls) : s.pollStep r p e f = .next (s.raise e) := by
  unfold State.pollStep
  rw [if_pos (by simpa [State.pollsExhausted] using hl)]

/-- A poll whose value satisfies the predicate leaves the loop in the step of its read. -/
theorem State.pollStep_leaves {s : State} {r : Reg} {p : Word → Bool} {e : Ending} {f : State → State}
    (hl : s.cfg.pollLimit ≠ some s.seq.polls) (hp : p (s.readValue r) = true) :
    s.pollStep r p e f = .next (f ((s.busRead r).setPolls (s.seq.polls + 1))) := by
  unfold State.pollStep
  rw [if_neg (by simpa [State.pollsExhausted] using hl)]
  exact congrArg Host.Outcome.next (if_pos hp)

/-- Any other poll is counted and the loop goes on. -/
theorem State.pollStep_stays {s : State} {r : Reg} {p : Word → Bool} {e : Ending} {f : State → State}
    (hl : s.cfg.pollLimit ≠ some s.seq.polls) (hp : p (s.readValue r) = false) :
    s.pollStep r p e f = .next ((s.busRead r).setPolls (s.seq.polls + 1)) := by
  unfold State.pollStep
  rw [if_neg (by simpa [State.pollsExhausted] using hl)]
  refine congrArg Host.Outcome.next (if_neg ?_)
  rw [State.setPolls_tmp, State.busRead_tmp, hp]
  decide

/-- At the end of the frame `Draining` reads nothing more. -/
theorem State.drainStep_done {s : State} (h : s.seq.offset = s.seq.sizeL) : s.drainStep = .next (s.setPhase .done) :=
  if_pos h

/-- A read without the empty bit delivers a byte. -/
theorem State.drainStep_delivers {s : State} (h : s.seq.offset ≠ s.seq.sizeL)
    (hb : fifoEmptyBit s.cfg.literals (s.readValue .rxfifoData) = false) :
    s.drainStep = .next ((((s.busRead .rxfifoData).memWrite (s.bufferAddress s.seq.offset)
      (fifoByte s.cfg.literals (s.readValue .rxfifoData))).setOffset (s.seq.offset + 1)).setPolls 0) := by
  unfold State.drainStep
  rw [if_neg h]
  refine if_neg ?_
  rw [State.busRead_tmp, hb]
  decide

/-- A read with the empty bit, below the limit, is counted and `Draining` goes on. -/
theorem State.drainStep_empty {s : State} (h : s.seq.offset ≠ s.seq.sizeL)
    (hb : fifoEmptyBit s.cfg.literals (s.readValue .rxfifoData) = true) (hl : s.cfg.pollLimit ≠ some (s.seq.polls + 1)) :
    s.drainStep = .next ((s.busRead .rxfifoData).setPolls (s.seq.polls + 1)) := by
  unfold State.drainStep
  rw [if_neg h]
  refine (if_pos ?_).trans (congrArg Host.Outcome.next (if_neg ?_))
  · rw [State.busRead_tmp, hb]
  · simpa [State.pollsExhausted] using hl

/-- A read with the empty bit that reaches the limit ends the operation. -/
theorem State.drainStep_exhausted {s : State} (h : s.seq.offset ≠ s.seq.sizeL)
    (hb : fifoEmptyBit s.cfg.literals (s.readValue .rxfifoData) = true) (hl : s.cfg.pollLimit = some (s.seq.polls + 1)) :
    s.drainStep = .next (((s.busRead .rxfifoData).setPolls (s.seq.polls + 1)).raise .timeoutDraining) := by
  unfold State.drainStep
  rw [if_neg h]
  refine (if_pos ?_).trans (congrArg Host.Outcome.next (if_pos ?_))
  · rw [State.busRead_tmp, hb]
  · simpa [State.pollsExhausted] using hl

end Sys2Proof.Machine
end

