-- ==== Sys2Proof/Laws/PerInstr.lean ====
section
/-! SUPPORT. One lemma per operation: its command word lies in the operation's row of the opcode table, mask and match written
out as 30_encoding.md R94 gives them. -/

namespace Sys2Proof.Laws

/-- The mask and the match of an operation's row (R94), as the table writes them. -/
def tableRow : Op → Command × Command
  | .regRead => (0xFF00FFFFFFFFFFFFFFFF, 0x10000000000000000000)
  | .regWrite => (0xFF0000000000FFFFFFFF, 0x11000000000000000000)
  | .setBits => (0xFF0000000000FFFFFFFF, 0x12000000000000000000)
  | .clearBits => (0xFF0000000000FFFFFFFF, 0x13000000000000000000)
  | .readBits => (0xFF0000000000FFFFFFFF, 0x14000000000000000000)
  | .writeBits => (0xFF000000000000000000, 0x15000000000000000000)
  | .parseIpv4 => (0xFFFF0000000000000000, 0x20000000000000000000)
  | .hton16 => (0xFFFFFFFF0000FFFFFFFF, 0x21000000000000000000)
  | .hton32 => (0xFFFF00000000FFFFFFFF, 0x22000000000000000000)
  | .init => (0xFFFFFFFFFFFFFFFFFFFF, 0x30000000000000000000)
  | .recvFrame => (0xFFFF0000000000000000, 0x31000000000000000000)
  | .sendFrame => (0xFFFF0000000000000000, 0x32000000000000000000)

/-- The word of the operation has its row's bits: `encode i & mask == match`. -/
def TableRow.Statement (i : Instr) : Prop := encode i &&& (tableRow i.op).1 = (tableRow i.op).2

/-- A word lies in a row when each of its fields, masked, is the row's. -/
theorem row_of_fields {op reg op' reg' op'' reg'' : Byte} {a b a' b' a'' b'' : Word}
    (h1 : op &&& op' = op'') (h2 : reg &&& reg' = reg'') (h3 : a &&& a' = a'') (h4 : b &&& b' = b'') :
    commandWord op reg a b &&& commandWord op' reg' a' b' = commandWord op'' reg'' a'' b'' := by
  rw [commandWord_and, h1, h2, h3, h4]

theorem TableRow.regRead (reg : BitVec 8) : TableRow.Statement (.regRead reg) :=
  row_of_fields (op' := 0xFF) (reg' := 0) (a' := 0xFFFFFFFF) (b' := 0xFFFFFFFF) (op'' := 0x10)
    rfl BitVec.and_zero rfl rfl

theorem TableRow.regWrite (reg : BitVec 8) (value : Word) : TableRow.Statement (.regWrite reg value) :=
  row_of_fields (op' := 0xFF) (reg' := 0) (a' := 0) (b' := 0xFFFFFFFF) (op'' := 0x11)
    rfl BitVec.and_zero BitVec.and_zero rfl

theorem TableRow.setBits (reg : BitVec 8) (mask : Word) : TableRow.Statement (.setBits reg mask) :=
  row_of_fields (op' := 0xFF) (reg' := 0) (a' := 0) (b' := 0xFFFFFFFF) (op'' := 0x12)
    rfl BitVec.and_zero BitVec.and_zero rfl

theorem TableRow.clearBits (reg : BitVec 8) (mask : Word) : TableRow.Statement (.clearBits reg mask) :=
  row_of_fields (op' := 0xFF) (reg' := 0) (a' := 0) (b' := 0xFFFFFFFF) (op'' := 0x13)
    rfl BitVec.and_zero BitVec.and_zero rfl

theorem TableRow.readBits (reg : BitVec 8) (mask : Word) : TableRow.Statement (.readBits reg mask) :=
  row_of_fields (op' := 0xFF) (reg' := 0) (a' := 0) (b' := 0xFFFFFFFF) (op'' := 0x14)
    rfl BitVec.and_zero BitVec.and_zero rfl

theorem TableRow.writeBits (reg : BitVec 8) (clear set : Word) : TableRow.Statement (.writeBits reg clear set) :=
  row_of_fields (op' := 0xFF) (reg' := 0) (a' := 0) (b' := 0) (op'' := 0x15)
    rfl BitVec.and_zero BitVec.and_zero BitVec.and_zero

theorem TableRow.parseIpv4 (text len : Word) : TableRow.Statement (.parseIpv4 text len) :=
  row_of_fields (op' := 0xFF) (reg' := 0xFF) (a' := 0) (b' := 0) (op'' := 0x20)
    rfl rfl BitVec.and_zero BitVec.and_zero

theorem TableRow.hton16 (v : Half) : TableRow.Statement (.hton16 v) :=
  row_of_fields (op' := 0xFF) (reg' := 0xFF) (a' := 0xFFFF0000) (b' := 0xFFFFFFFF) (op'' := 0x21)
    rfl rfl (setWidth_half_and v) rfl

theorem TableRow.hton32 (v : Word) : TableRow.Statement (.hton32 v) :=
  row_of_fields (op' := 0xFF) (reg' := 0xFF) (a' := 0) (b' := 0xFFFFFFFF) (op'' := 0x22)
    rfl rfl BitVec.and_zero rfl

theorem TableRow.init : TableRow.Statement .init :=
  row_of_fields (op' := 0xFF) (reg' := 0xFF) (a' := 0xFFFFFFFF) (b' := 0xFFFFFFFF) (op'' := 0x30)
    rfl rfl rfl rfl

theorem TableRow.recvFrame (buffer size : Word) : TableRow.Statement (.recvFrame buffer size) :=
  row_of_fields (op' := 0xFF) (reg' := 0xFF) (a' := 0) (b' := 0) (op'' := 0x31)
    rfl rfl BitVec.and_zero BitVec.and_zero

theorem TableRow.sendFrame (buffer size : Word) : TableRow.Statement (.sendFrame buffer size) :=
  row_of_fields (op' := 0xFF) (reg' := 0xFF) (a' := 0) (b' := 0) (op'' := 0x32)
    rfl rfl BitVec.and_zero BitVec.and_zero

end Sys2Proof.Laws
end

