-- ==== Sys2Proof/Machine/Pseudo.lean ====
section
/-! DEFINITION. What the spec names beside the operations: the pseudo-operations with their expansions (30_encoding.md R104),
none of which has an encoding of its own, and a bus transaction as the triple on the register bus (R97). -/

namespace Sys2Proof.Machine

/-- The pseudo-operations (R104). A text is its address and its length in host memory (R103). DESIGN CHOICE,
notes/assumptions/26.md: R104 does not say whether a register operand may name a reserved gap (`RSVD0`, `RSVD1`) or an id
that names nothing; the model's register operands are the fourteen named registers. -/
inductive Pseudo where
  | testBits (reg : Reg) (mask : Word)
  | pollSet (reg : Reg) (mask : Word)
  | pollZero (reg : Reg)
  | ctrlEnable
  | ctrlRxStart
  | ctrlTxStart
  | encodeIp (text len : Word)
  | encodePort (p : Half)
  deriving DecidableEq, Repr

/-- What a pseudo-operation does next: issue one more operation, or end with a value. -/
inductive PseudoStep where
  | issue (i : Instr)
  | done (v : Word)
  deriving DecidableEq, Repr

/-- The plain write of a command word to `CTRL`, issued once. -/
def ctrlExpansion (command : Word) : List Word → PseudoStep
  | [] => .issue (.regWrite (idOfReg .ctrl) command)
  | _ :: _ => .done 0

/-- The expansion of a pseudo-operation (R104), from the values its operations have returned so far, the latest first.
DESIGN CHOICE, notes/assumptions/26.md: R104 does not say what an expansion does when one of its operations does not end
with `Ok` (an `ENCODE_IP` whose `PARSE_IPV4` ends with `BadRange`); the model goes on with the value 0 that the refused
operation returns (R96). -/
def Pseudo.expand (l : Literals) : Pseudo → List Word → PseudoStep
  | .testBits reg mask, [] => .issue (.readBits (idOfReg reg) mask)
  | .testBits _ _, v :: _ => .done (if v = 0 then 0 else 1)
  | .pollSet reg mask, [] => .issue (.readBits (idOfReg reg) mask)
  | .pollSet reg mask, v :: _ => if v = 0 then .issue (.readBits (idOfReg reg) mask) else .done 0
  | .pollZero reg, [] => .issue (.regRead (idOfReg reg))
  | .pollZero reg, v :: _ => if v = 0 then .done 0 else .issue (.regRead (idOfReg reg))
  | .ctrlEnable, vs => ctrlExpansion l.ctrlEnable vs
  | .ctrlRxStart, vs => ctrlExpansion l.ctrlRxStart vs
  | .ctrlTxStart, vs => ctrlExpansion l.ctrlTxStart vs
  | .encodeIp text len, [] => .issue (.parseIpv4 text len)
  | .encodeIp _ _, [h] => .issue (.hton32 h)
  | .encodeIp _ _, v :: _ :: _ => .done v
  | .encodePort p, [] => .issue (.hton16 p)
  | .encodePort _, w :: _ => .done w

/-- The kind of a bus transaction (R97). -/
inductive BusKind where
  | read | write
  deriving DecidableEq, Repr

/-- The transaction on the register bus: kind, byte address, data (R97). -/
def BusEvent.triple (c : Config) : BusEvent → BusKind × Nat × Word
  | .read r v => (.read, c.busAddress r, v)
  | .write r v => (.write, c.busAddress r, v)

end Sys2Proof.Machine
end

