-- ==== Sys2Proof/Tests/Slice0.lean ====
section
/-! SUPPORT. The model's own tests, each a named theorem about at most one step. Expected values come from the vectors of
95_test_vectors.md (`V<n>`) or from the rule named. The `witness_…` theorems show, for each statement with hypotheses, a
concrete state and operands that meet all of them together. -/

namespace Sys2Proof.Tests

open Sys2Proof.Machine

/-! ## Helpers -/

/-- The idle accessor in the configuration of the vectors. -/
def base : State := { State.reset with cfg := Config.vectors }

/-- `base` with a read script. -/
def scriptedBy (answers : List (Reg × Word)) : State := { base with answers := answers }

/-- `base` with host bytes from an address upward. -/
def holding (a : Nat) (bytes : List Byte) : State :=
  { base with mem := bytes.zipIdx.foldl (fun m c => Memory.write m (a + c.2) c.1) [] }

/-- A state with other latches. -/
def latched (s : State) (q : Latches) : State := { s with seq := q }

/-- The latches of an operation in progress. -/
def running (op : Op) (phase : Phase) : Latches := { Latches.reset with curOp := some op, phase := phase }

/-- The latches of a transfer in progress on the frame buffer `[buf, buf + size)`. -/
def transfer (op : Op) (phase : Phase) (buf size offset : Word) : Latches :=
  { running op phase with opndA := buf, opndB := size, buf := buf, sizeL := size, offset := offset }

/-- `base` with a poll limit. -/
def limited (n : Nat) : State := { base with cfg := { Config.vectors with pollLimit := some n } }

/-- `base` with the reference device. -/
def device (d : Device) : State := { base with environment := .reference, dev := d }

/-- The answer is a next state with the property. -/
def onNext (a : Answer) (p : State → Bool) : Bool :=
  match a with
  | .next t => p t
  | .fault _ => false
  | .refused _ => false

/-- One step on a command word: the entries the trace grows by and the result words it returns. -/
def oneStep (s : State) (w : Nat) (trace : List BusEvent) (results : List ResultWord) : Bool :=
  onNext (step (s.withFetchWord 80 w)) (fun t => t.busTrace == trace && t.results == results)

/-! ## Well-formedness: a well-formed operation of each kind, and an ill-formed one for each check -/

theorem test_wf_accepts :
    [Instr.regRead 13, .regWrite 8 0x40, .parseIpv4 0xFFFFFFFC 4, .recvFrame 0xFFFFFFFE 2, .init].all (Instr.wf 32) = true := by
  decide

theorem test_wf_refuses_reserved_gap : Instr.wf 32 (.regRead 14) = false := by decide

theorem test_wf_refuses_unknown_register : Instr.wf 32 (.setBits 16 1) = false := by decide

theorem test_wf_refuses_write_of_read_only : Instr.wf 32 (.regWrite 5 1) = false := by decide

theorem test_wf_refuses_range_past_top : Instr.wf 32 (.recvFrame 0xFFFFFFFF 2) = false := by decide

/-- The three checks agree with the ones the meanings make, on every register id. -/
theorem test_wf_follows_register_checks : ∀ id : BitVec 8,
    ((Instr.regRead id).wf 32 = match readTarget id with
      | .ok _ => true
      | .error _ => false) ∧
    (Instr.regWrite id 0).wf 32 = namesWritable id := by
  decide

/-! ## Decoding: one word per row, written out field by field as R91, R92 and R94 give it -/

theorem test_decode_reg_read : decode 0x10080000000000000000 = .op (.regRead 8) := by decide

theorem test_decode_reg_write : decode 0x1102FFFF282300000000 = .op (.regWrite 2 0xFFFF2823) := by decide

theorem test_decode_set_bits : decode 0x12040000000100000000 = .op (.setBits 4 1) := by decide

theorem test_decode_clear_bits : decode 0x1309FFFFFFFF00000000 = .op (.clearBits 9 0xFFFFFFFF) := by decide

theorem test_decode_read_bits : decode 0x140A0000000000000000 = .op (.readBits 10 0) := by decide

theorem test_decode_write_bits : decode 0x15090000000F000000F0 = .op (.writeBits 9 0x0F 0xF0) := by decide

theorem test_decode_parse_ipv4 : decode 0x2000FFFFFFFC00000005 = .op (.parseIpv4 0xFFFFFFFC 5) := by decide

theorem test_decode_hton16 : decode 0x21000000123400000000 = .op (.hton16 0x1234) := by decide

theorem test_decode_hton32 : decode 0x22001234567800000000 = .op (.hton32 0x12345678) := by decide

theorem test_decode_init : decode 0x30000000000000000000 = .op .init := by decide

theorem test_decode_recv_frame : decode 0x3100FFFFFFFE00000002 = .op (.recvFrame 0xFFFFFFFE 2) := by decide

theorem test_decode_send_frame : decode 0x32000000200000000003 = .op (.sendFrame 0x2000 3) := by decide

/-- V32, V33, V88, V98 and V47: illegal words, with the reason. -/
theorem test_decode_illegal :
    [decode 0x16080000000000000000, decode 0x10080000000000000001, decode 0x20010000300000000008,
      decode 0x210000011F9000000000, decode 0x31010000100000000004, decode 0x30000000000000000001] =
    [.illegal .unknownOp, .illegal .mustBeZero, .illegal .mustBeZero, .illegal .mustBeZero, .illegal .mustBeZero,
      .illegal .mustBeZero] := by
  decide

/-- R94: the masks and matches of the decoder's own map are the table's numbers. -/
theorem test_map_is_the_table : opMap.map (fun r => (r.maskWord, r.matchWord)) =
    [Op.regRead, .regWrite, .setBits, .clearBits, .readBits, .writeBits, .parseIpv4, .hton16, .hton32, .init,
      .recvFrame, .sendFrame].map Sys2Proof.Laws.tableRow := by
  decide

/-- The host's numbering: bit `k` of the table is bit `k` of the command word. -/
theorem test_decode_table_word : decodeTableWord 80 0x15090000000F000000F0 = some (.writeBits 9 0x0F 0xF0) := by decide

/-! ## Register Access Layer -/

/-- V12. -/
theorem test_reg_read : oneStep { base with regs := { Storage.reset with rxsize := 0x40 } } 0x10080000000000000000
    [.read .rxsize 0x40] [0x0000000040] = true := by decide

/-- V36: the read pops the head of the receive FIFO. -/
theorem test_reg_read_pops : onNext
    (step ((device { Device.reset with rxFifo := [0x11, 0x22] }).withFetchWord 80 0x100A0000000000000000 |>
      fun s => { s with schedule := [[]] }))
    (fun t => t.results == [0x0000000011] && t.dev.rxFifo == [0x22]) = true := by decide

/-- V39: the upper bits of a port register are stored as given. -/
theorem test_reg_write : onNext (step (base.withFetchWord 80 0x1102FFFF282300000000))
    (fun t => t.busTrace == [.write .rxport 0xFFFF2823] && t.regs.rxport == 0xFFFF2823 && t.results == [0]) = true := by
  decide

/-- V26: a read-only register. -/
theorem test_reg_write_refused : oneStep base 0x11050000000100000000 [] [0x0300000000] = true := by decide

/-- V14, first half: the read. -/
theorem test_set_bits_reads : oneStep { base with regs := { Storage.reset with rxsize := 0x40 } } 0x12080000000F00000000
    [.read .rxsize 0x40] [] = true := by decide

/-- V14, second half: the write. -/
theorem test_set_bits_writes : onNext
    (step (latched base { running .setBits .idle with opndReg := 8, opndA := 0x0F, tmp := 0x40, readDone := true }))
    (fun t => t.busTrace == [.write .rxsize 0x4F] && t.results == [0] && t.seq.curOp == none) = true := by decide

/-- V27: not even the read half of a refused `SET_BITS` is issued. -/
theorem test_clear_bits_refused : oneStep base 0x13060000000100000000 [] [0x0300000000] = true := by decide

/-- V15, second half. -/
theorem test_clear_bits_writes : onNext
    (step (latched base { running .clearBits .idle with opndReg := 8, opndA := 0xF0, tmp := 0x4F, readDone := true }))
    (fun t => t.busTrace == [.write .rxsize 0x0F] && t.results == [0]) = true := by decide

/-- V16. -/
theorem test_read_bits : oneStep (scriptedBy [(.rxStatus, 0xABCDEF01)]) 0x14060000000100000000
    [.read .rxStatus 0xABCDEF01] [0x0000000001] = true := by decide

/-- V29 to V31: the reserved gaps and an id that names nothing. -/
theorem test_read_refused : oneStep base 0x100E0000000000000000 [] [0x0200000000] = true ∧
    oneStep base 0x100F0000000000000000 [] [0x0200000000] = true ∧
    oneStep base 0x10100000000000000000 [] [0x0100000000] = true := by decide

/-- V18, second half: a set mask outside the clear mask. -/
theorem test_write_bits_writes : onNext
    (step (latched base
      { running .writeBits .idle with opndReg := 9, opndA := 0x0F, opndB := 0xF0, tmp := 0x0F, readDone := true }))
    (fun t => t.busTrace == [.write .txsize 0xF0] && t.results == [0]) = true := by decide

/-- V28. -/
theorem test_write_bits_refused : oneStep base 0x150D0000000000000000 [] [0x0300000000] = true := by decide

/-- V32: an illegal word ends with `IllegalCommand` and no transaction. -/
theorem test_illegal_word : oneStep base 0x16080000000000000000 [] [0x0100000000] = true := by decide

/-- The pure-function table of R122, fifth and sixth rows. -/
theorem test_mask_functions :
    setMask (0x12345678 : Word) 0x0000FF00 = 0x1234FF78 ∧ clearMask (0x12345678 : Word) 0x0000FF00 = 0x12340078 ∧
      readMask (0x12345678 : Word) 0x0000FF00 = 0x00005600 ∧
      writeMask (0x12345678 : Word) 0x0000FF00 0x0000AB00 = 0x1234AB78 ∧
      writeMask (0x12345678 : Word) 0x0000FF00 0x00AB0000 = 0x12BF0078 := by decide

/-! ## Address/Port Encoding -/

/-- V86: the text "10.0.0.5" in host memory. -/
theorem test_parse_ipv4 : oneStep (holding 0x3000 [0x31, 0x30, 0x2E, 0x30, 0x2E, 0x30, 0x2E, 0x35])
    0x20000000300000000008 [] [0x000A000005] = true := by decide

/-- V87: a range past the top. -/
theorem test_parse_ipv4_refused : oneStep base 0x2000FFFFFFFC00000005 [] [0x0400000000] = true := by decide

/-- V2, V3, V65, V71, V73, V74, V85: tags and values of texts. -/
theorem test_parse_texts :
    parseIpv4 8 [0x61, 0x2E, 0x62, 0x2E, 0x63, 0x2E, 0x64] = (.invalidChar, 0) ∧
      parseIpv4 8 [0x31, 0x2E, 0x32, 0x2E, 0x33] = (.wrongCount, 0) ∧ parseIpv4 8 [] = (.wrongCount, 0) ∧
      parseIpv4 8 [0x32, 0x36, 0x30, 0x2E, 0x32, 0x35, 0x35, 0x2E, 0x32, 0x35, 0x35, 0x2E, 0x32, 0x35, 0x35] =
        (.parsed, 0x04FFFFFF) ∧
      parseIpv4 8 [0x34, 0x32, 0x39, 0x34, 0x39, 0x36, 0x37, 0x32, 0x39, 0x36, 0x2E, 0x30, 0x2E, 0x30, 0x2E, 0x31] =
        (.parsed, 1) ∧
      parseIpv4 8 [0x31, 0x2E, 0x2E, 0x32, 0x2E, 0x33] = (.parsed, 0x01000203) ∧
      parseIpv4 8 [0x31, 0x2E, 0x32, 0x2E, 0x33, 0x2E, 0x34, 0x2E, 0x78] = (.invalidChar, 0) := by decide

/-- R162, V66: `format_ipv4` writes no leading zeros ("10.1.0.9"). -/
theorem test_format : formatIpv4 0x0A010009 = [0x31, 0x30, 0x2E, 0x31, 0x2E, 0x30, 0x2E, 0x39] := by decide

/-- V89. -/
theorem test_hton16 : oneStep base 0x210000001F9000000000 [] [0x000000901F] = true := by decide

/-- V98: `a[31:16]` must be 0. -/
theorem test_hton16_refused : oneStep base 0x210000011F9000000000 [] [0x0100000000] = true := by decide

/-- V101. -/
theorem test_hton32 : oneStep base 0x22001234567800000000 [] [0x0078563412] = true := by decide

/-- V103. -/
theorem test_hton32_top_bit : hton32 0x80000000 = 0x00000080 := by decide

/-! ## Frame Transfer Engine -/

/-- V60: the first write of `INIT`. -/
theorem test_init_first_write : oneStep base 0x30000000000000000000 [.write .rxip 0x0500000A] [] = true := by decide

/-- V60: the last write of `INIT`, the plain word 1. -/
theorem test_init_last_write : onNext (step (latched base { running .init .idle with subStep := 4 }))
    (fun t => t.busTrace == [.write .ctrl 1] && t.seq.subStep == 5 && t.results == []) = true := by decide

/-- V42: an empty read stores nothing, whatever its low byte. -/
theorem test_recv_empty_read : onNext
    (step (latched (scriptedBy [(.rxfifoData, 0x800000FF)]) (transfer .recvFrame .draining 0x1000 2 0)))
    (fun t => t.mem == [] && t.seq.offset == 0 && t.seq.phase == .draining) = true := by decide

/-- V42: bits 30:8 of a delivered read are ignored. -/
theorem test_recv_delivered_byte : onNext
    (step (latched (scriptedBy [(.rxfifoData, 0x7FFFFF41)]) (transfer .recvFrame .draining 0x1000 2 0)))
    (fun t => t.mem == [(0x1000, 0x41)] && t.seq.offset == 1) = true := by decide

/-- V52: a byte with the top bit set is zero-extended. -/
theorem test_send_byte : onNext (step (latched (holding 0x2000 [0xFF, 0x80]) (transfer .sendFrame .filling 0x2000 2 1)))
    (fun t => t.busTrace == [.write .txfifoData 0x00000080] && t.seq.offset == 2) = true := by decide

/-- V53: the zero test is on all 32 bits. -/
theorem test_send_zero_test : onNext
    (step (latched (scriptedBy [(.txfifoSize, 0x00010000)]) (transfer .sendFrame .drainWait 0x2000 0 0)))
    (fun t => t.seq.phase == .drainWait && t.seq.polls == 1) = true := by decide

/-! ## Configuration, literals, pseudo-operations, the reference device -/

/-- R31: the default layout meets its constraints, with a span of 0x40 bytes (R9). -/
theorem test_default_layout : Layout.default.wf = true ∧ Layout.default.span = 0x40 ∧ Config.vectors.wf = true := by decide

/-- R93: ids and names go both ways. -/
theorem test_register_ids : ∀ id : BitVec 8, (match regOfId id with
    | some r => idOfReg r == id
    | none => 14 ≤ id.toNat) = true := by decide

/-- R104: the expansion of the poll `POLL_SET RX_STATUS, 1` after a zero and after a nonzero value. -/
theorem test_poll_set_expansion : (Pseudo.pollSet .rxStatus 1).expand literals [] = .issue (.readBits 6 1) ∧
    (Pseudo.pollSet .rxStatus 1).expand literals [0] = .issue (.readBits 6 1) ∧
    (Pseudo.pollSet .rxStatus 1).expand literals [1, 0] = .done 0 := by decide

/-- R104: `ENCODE_IP` is `PARSE_IPV4` and then `HTON32`. -/
theorem test_encode_ip_expansion : (Pseudo.encodeIp 0x3000 8).expand literals [0x0A000005] = .issue (.hton32 0x0A000005) ∧
    (Pseudo.encodeIp 0x3000 8).expand literals [0x0500000A, 0x0A000005] = .done 0x0500000A := by decide

/-- R97: the address of a transaction in the default layout. -/
theorem test_bus_triple : (BusEvent.write .ctrl 1).triple { Config.vectors with base := 0x1000 } = (.write, 0x1010, 1) := by
  decide

/-- R230: a byte from the wire, the last of its frame. -/
theorem test_device_receives : (({ Device.reset with
      enabled := true, rxActive := true, rxLeft := 1, wireRx := [0xDE, 0xAD] } : Device).move Config.vectors .rxByte) =
    { Device.reset with enabled := true, rxReady := true, rxFifo := [0xDE], wireRx := [0xAD] } := by decide

/-- R230: the last byte onto the wire ends the transmit. -/
theorem test_device_sends : (({ Device.reset with
      enabled := true, txActive := true, txLeft := 1, txFifo := [0x7E] } : Device).move Config.vectors .txByte) =
    { Device.reset with enabled := true, wireTx := [0x7E] } := by decide

/-! ## Witnesses: the hypotheses of each statement hold together somewhere -/

theorem witness_EncodeOfDecode : decode 0x15FFFFFFFFFFFFFFFFFF = .op (.writeBits 0xFF 0xFFFFFFFF 0xFFFFFFFF) := by decide

theorem witness_DecodeFollowsOperationMap :
    decode 0x10FF0000000000000000 = .op (.regRead 0xFF) ∧
      (⟨.init, 0x30, 0xFF, 0xFFFFFFFF, 0xFFFFFFFF⟩ ∈ opMap ∧
        MapRow.selects ⟨.init, 0x30, 0xFF, 0xFFFFFFFF, 0xFFFFFFFF⟩ 0x30000000000000000000 = true) ∧
      decode 0 = .illegal .unknownOp := by decide

theorem witness_StepRunsDecodedOperation :
    let s := { base with caller := [.issue 0x30000000000000000000] };
    s.idle ∧ s.caller = .issue 0x30000000000000000000 :: [] ∧ decode 0x30000000000000000000 = .op .init := by decide

theorem witness_StepContinuesOperationInProgress :
    (latched base (running .init .idle)).seq.curOp = some .init := by decide

theorem witness_OperationsAreSerial :
    (latched base (running .init .idle)).seq.curOp = some .init ∧
      ∃ t, step (latched base (running .init .idle)) = .next t := ⟨rfl, _, rfl⟩

theorem witness_IdleAccessorWaitsForCaller :
    (base.idle ∧ base.caller = []) ∧
      (let s := { base with caller := [.store 0xFFFFFFFF 0xAB] };
        s.idle ∧ s.caller = .store 0xFFFFFFFF 0xAB :: [] ∧ 0xFFFFFFFF < 2 ^ s.cfg.addrWidth ∧ Memory.wf s.mem = true) := by
  decide

theorem witness_PeripheralMovesTouchOnlyTheDevice : base.environment = .unconstrained := by decide

theorem witness_IllegalCommandIsRefused :
    (let s := { base with caller := [.issue 0x16080000000000000000] };
      s.idle ∧ s.caller = .issue 0x16080000000000000000 :: [] ∧
        ∀ r ∈ opMap, r.selects 0x16080000000000000000 = false) ∧
      (base.idle ∧ Op.regRead ∈ registerOps ∧ 16 ≤ (16 : BitVec 8).toNat) ∧
      (base.idle ∧ Op.writeBits ∈ registerOps ∧ 16 ≤ (255 : BitVec 8).toNat) := by decide

theorem witness_ReadOperationsComplete :
    base.idle ∧ regOfId 0 = some .rxip ∧ regOfId 13 = some .txfifoSize := by decide

theorem witness_RegWriteCompletes :
    base.idle ∧ (regOfId 0 = some .rxip ∧ writable .rxip = true) ∧
      (regOfId 11 = some .txfifoData ∧ writable .txfifoData = true) := by decide

theorem witness_ReadModifyWriteReadsFirst :
    base.idle ∧ Op.setBits ∈ [Op.setBits, Op.clearBits, Op.writeBits] ∧ regOfId 4 = some .ctrl ∧
      writable .ctrl = true := by decide

theorem witness_ReadModifyWriteWritesSecond : [Op.setBits, .clearBits, .writeBits].all (fun op =>
    let s := latched base { running op .idle with opndReg := 8, readDone := true };
    s.seq.readDone && regOfId 8 == some .rxsize && writable .rxsize && s.seq.curOp == some op) = true := by decide

theorem witness_WriteBitsReplacesStoredBits :
    let s := { base with caller := [.issue (encode (.writeBits 8 0xFF 0x12))] };
    s.idle ∧ regOfId 8 = some .rxsize ∧ s.regs.read .rxsize = some 0 ∧
      s.caller = .issue (encode (.writeBits 8 0xFF 0x12)) :: [] := by decide

theorem witness_ReservedAndUnknownRegistersAreRefused :
    base.idle ∧ Op.regRead ∈ registerOps ∧ ((14 : BitVec 8) = 14 ∨ (14 : BitVec 8) = 15) ∧
      ((15 : BitVec 8) = 14 ∨ (15 : BitVec 8) = 15) ∧ 16 ≤ (16 : BitVec 8).toNat ∧ 16 ≤ (255 : BitVec 8).toNat := by
  decide

theorem witness_WritesToReadOnlyRegistersAreRefused :
    base.idle ∧ Op.regWrite ∈ writingOps ∧ regOfId 5 = some .status ∧ regOfId 13 = some .txfifoSize ∧
      Reg.status ∈ [Reg.status, .rxStatus, .txStatus, .rxfifoData, .rxfifoSize, .txfifoSize] ∧
      Reg.txfifoSize ∈ [Reg.status, .rxStatus, .txStatus, .rxfifoData, .rxfifoSize, .txfifoSize] := by decide

theorem witness_WriteOnlyReadsAreFreshDraws :
    base.idle ∧ base.environment = .unconstrained ∧
      (regOfId 4 = some .ctrl ∧ scripted base.answers .ctrl = none) ∧
      (regOfId 11 = some .txfifoData ∧ scripted base.answers .txfifoData = none) := by decide

theorem witness_StorageRegistersReturnLastWritten :
    Reg.rxip ∈ [Reg.rxip, .txip, .rxport, .txport, .rxsize, .txsize] ∧
      Reg.txsize ∈ [Reg.rxip, .txip, .rxport, .txport, .rxsize, .txsize] ∧ Reg.txsize ≠ Reg.rxip := by decide

theorem witness_MaskFunctionLaws : (0x00AB : BitVec 16) &&& ~~~(0x00FF : BitVec 16) = 0 := by decide

theorem witness_FirstFailedCheckIsReported :
    base.idle ∧ (Instr.regRead 14).namesRegister = false ∧ (Instr.regRead 255).namesRegister = false ∧
      ((Instr.regWrite 5 0).namesRegister = true ∧ (Instr.regWrite 5 0).mayWrite = false) ∧
      ((Instr.sendFrame 0xFFFFFFFF 2).namesRegister = true ∧ (Instr.sendFrame 0xFFFFFFFF 2).mayWrite = true ∧
        (Instr.sendFrame 0xFFFFFFFF 2).rangeFits base.cfg.addrWidth = false) ∧
      (Instr.sendFrame 0xFFFFFFFE 2).wf base.cfg.addrWidth = true := by decide

theorem witness_RangesPastTheTopAreRefused :
    base.idle ∧ Op.parseIpv4 ∈ [Op.parseIpv4, .recvFrame, .sendFrame] ∧
      2 ^ base.cfg.addrWidth < (0xFFFFFFFC : Word).toNat + (5 : Word).toNat ∧
      (0xFFFFFFFF : Word).toNat ≤ 2 ^ base.cfg.addrWidth - 1 := by decide

theorem witness_ParseIpv4Completes :
    base.idle ∧ (0xFFFFFFFC : Word).toNat + (4 : Word).toNat ≤ 2 ^ base.cfg.addrWidth := by decide

theorem witness_ByteSwapsComplete : base.idle := by decide

theorem witness_OctetsArePackedModulo256 :
    ([0x39, 0x39, 0x39] : List Byte).all isDigit = true ∧ ([] : List Byte).all isDigit = true := by decide

theorem witness_ParseFailuresGiveZeroAndTag :
    ([0x61, 0x2E] : List Byte).any (fun c => !(c == charDot || isDigit c)) = true ∧
      (([0x31, 0x2E, 0x32] : List Byte).all (fun c => c == charDot || isDigit c) = true ∧
        ([0x31, 0x2E, 0x32] : List Byte).count charDot ≠ 3) ∧
      (([0x2E, 0x2E, 0x2E] : List Byte).all (fun c => c == charDot || isDigit c) = true ∧
        ([0x2E, 0x2E, 0x2E] : List Byte).count charDot = 3) := by decide

theorem witness_FailedParseLooksLikeZeroAddress :
    (base.idle ∧ (0x3000 : Word).toNat + (0 : Word).toNat ≤ 2 ^ base.cfg.addrWidth ∧
      (parseIpv4 base.cfg.octetWidth (Memory.bytes base.mem 0x3000 0)).1 ≠ .parsed) ∧
    (let s := holding 0x3000 [0x30, 0x2E, 0x30, 0x2E, 0x30, 0x2E, 0x30];
      s.idle ∧ (0x3000 : Word).toNat + (7 : Word).toNat ≤ 2 ^ s.cfg.addrWidth ∧
        Memory.bytes s.mem 0x3000 7 = [0x30, 0x2E, 0x30, 0x2E, 0x30, 0x2E, 0x30]) := by decide

/-- V109: the configured texts "10.0.0" and "0.0.0.0". -/
theorem witness_FailedParseLooksLikeZeroAddress_init :
    let bad := { base with cfg := { Config.vectors with
      rxIp := [0x31, 0x30, 0x2E, 0x30, 0x2E, 0x30], txIp := [0x30, 0x2E, 0x30, 0x2E, 0x30, 0x2E, 0x30] } };
    (bad.idle ∧ (parseIpv4 bad.cfg.octetWidth bad.cfg.rxIp).1 ≠ .parsed) ∧
      (latched bad { running .init .idle with subStep := 1 }).seq.curOp = some .init ∧
      (latched bad { running .init .idle with subStep := 1 }).seq.subStep = 1 ∧
      bad.cfg.txIp = [0x30, 0x2E, 0x30, 0x2E, 0x30, 0x2E, 0x30] := by decide

theorem witness_InitStepsComplete :
    base.idle ∧ (latched base { running .init .idle with subStep := 4 }).specLiterals ∧ ∀ n : Fin 6,
      (latched base { running .init .idle with subStep := n }).seq.curOp = some .init ∧
        (latched base { running .init .idle with subStep := n }).seq.subStep = n := by decide

theorem witness_InitIssuesFiveWritesAndEnds :
    let s := { base with caller := [.issue (encode .init)] };
    s.specLiterals ∧ s.idle ∧ s.caller = .issue (encode .init) :: [] := by decide

theorem witness_TransfersAreAccepted :
    base.idle ∧ Op.recvFrame ∈ [Op.recvFrame, .sendFrame] ∧
      (0xFFFFFFFE : Word).toNat + (2 : Word).toNat ≤ 2 ^ base.cfg.addrWidth := by decide

theorem witness_ConfiguringWritesSizeThenStart : [Op.recvFrame, .sendFrame].all (fun op =>
    [(0 : Fin 6), 1].all (fun n =>
      let q := { transfer op .configuring 0x1000 4 0 with subStep := n };
      decide (latched base q).specLiterals && (latched base q).seq.phase == .configuring && (latched base q).seq.curOp == some op &&
        (latched base q).seq.subStep == n)) = true := by decide

theorem witness_WaitingForDataPollsReadyBit : [(0xFFFFFFFE : Word), 0xABCDEF01].all (fun v =>
    let s := latched (scriptedBy [(.rxStatus, v)]) (transfer .recvFrame .waitingForData 0x1000 4 0);
    decide s.specLiterals && s.seq.curOp == some .recvFrame && s.seq.phase == .waitingForData && s.cfg.pollLimit != some s.seq.polls &&
      s.readValue .rxStatus == v) = true := by decide

theorem witness_WaitingForDataPollsReadyBit_draining :
    let s := latched (scriptedBy [(.rxfifoData, 0x41)]) (transfer .recvFrame .draining 0x1000 4 0);
    s.seq.curOp = some .recvFrame ∧ s.seq.phase = .draining ∧ ∃ t, exec (.recvFrame 0x1000 4) s = .next t :=
  ⟨rfl, rfl, _, rfl⟩

theorem witness_DrainingStoresEachDeliveredByte :
    (let s := latched base (transfer .recvFrame .draining 0x1000 4 4);
      s.specLiterals ∧ s.seq.curOp = some .recvFrame ∧ s.seq.phase = .draining ∧ Memory.wf s.mem = true ∧ s.seq.offset = s.seq.sizeL) ∧
    (let s := latched (scriptedBy [(.rxfifoData, 0x7FFFFFFF)]) (transfer .recvFrame .draining 0x1000 4 3);
      s.specLiterals ∧ s.seq.curOp = some .recvFrame ∧ s.seq.phase = .draining ∧ Memory.wf s.mem = true ∧ s.seq.offset ≠ s.seq.sizeL ∧
        (s.readValue .rxfifoData).getLsbD 31 = false) ∧
    (let s := latched { limited 2 with answers := [(.rxfifoData, 0x80000000)] } (transfer .recvFrame .draining 0x1000 4 3);
      s.specLiterals ∧ s.seq.curOp = some .recvFrame ∧ s.seq.phase = .draining ∧ Memory.wf s.mem = true ∧ s.seq.offset ≠ s.seq.sizeL ∧
        (s.readValue .rxfifoData).getLsbD 31 = true ∧ s.cfg.pollLimit ≠ some (s.seq.polls + 1)) ∧
    (let s := latched { limited 1 with answers := [(.rxfifoData, 0x80000000)] } (transfer .recvFrame .draining 0x1000 4 3);
      s.specLiterals ∧ s.seq.curOp = some .recvFrame ∧ s.seq.phase = .draining ∧ Memory.wf s.mem = true ∧ s.seq.offset ≠ s.seq.sizeL ∧
        (s.readValue .rxfifoData).getLsbD 31 = true ∧ s.cfg.pollLimit = some (s.seq.polls + 1)) := by decide

theorem witness_FillingWritesEachByteInOrder :
    (let s := latched base (transfer .sendFrame .filling 0x2000 3 3);
      s.seq.curOp = some .sendFrame ∧ s.seq.phase = .filling ∧ s.seq.offset = s.seq.sizeL) ∧
    (let s := latched base (transfer .sendFrame .filling 0x2000 3 2);
      s.seq.curOp = some .sendFrame ∧ s.seq.phase = .filling ∧ s.seq.offset ≠ s.seq.sizeL) := by decide

theorem witness_DrainWaitPollsForZero : [(0 : Word), 0x80000000].all (fun v =>
    let s := latched (scriptedBy [(.txfifoSize, v)]) (transfer .sendFrame .drainWait 0x2000 0 0);
    s.seq.curOp == some .sendFrame && s.seq.phase == .drainWait && s.cfg.pollLimit != some s.seq.polls &&
      s.readValue .txfifoSize == v) = true := by decide

theorem witness_DoneEndsTheTransfer : [Op.recvFrame, .sendFrame].all (fun op =>
    let s := latched base (transfer op .done 0x2000 3 3);
    [Op.recvFrame, .sendFrame].contains op && s.seq.curOp == some op && s.seq.phase == .done) = true := by decide

theorem witness_PollLimitEndsWithTimeout :
    (let s := latched (limited 3) { transfer .recvFrame .waitingForData 0x1000 1 0 with polls := 3 };
      s.seq.curOp = some .recvFrame ∧ s.seq.phase = .waitingForData ∧ s.cfg.pollLimit = some s.seq.polls) ∧
    (let s := latched (limited 3) { transfer .sendFrame .drainWait 0x2000 1 1 with polls := 3 };
      s.seq.curOp = some .sendFrame ∧ s.seq.phase = .drainWait ∧ s.cfg.pollLimit = some s.seq.polls) := by decide

/-- V42's script. -/
theorem witness_RecvFrameReceivesTheFrame :
    let raw : List Word := [0x800000FF, 0x7FFFFF41, 0xFFFFFFFF, 0x12345642];
    let data := raw.filter (fun v => !v.getLsbD 31);
    let notReady : List Word := [0xFFFFFFFE, 0];
    let s := { scriptedBy (notReady.map (Prod.mk Reg.rxStatus) ++ (.rxStatus, 0xABCDEF01) ::
      (raw.map (Prod.mk Reg.rxfifoData) ++ [])) with caller := [.issue (encode (.recvFrame 0x1000 2))] };
    data.length = 2 ∧ s.specLiterals ∧ s.idle ∧ s.environment = .unconstrained ∧ s.cfg.pollLimit = none ∧ Memory.wf s.mem = true ∧
      (∀ v ∈ notReady, v.getLsbD 0 = false) ∧ (0xABCDEF01 : Word).getLsbD 0 = true ∧
      (raw.getLast?.map (fun v => v.getLsbD 31)) = some false ∧ data.length < 2 ^ 32 ∧
      (0x1000 : Word).toNat + data.length ≤ 2 ^ s.cfg.addrWidth ∧
      s.caller = .issue (encode (.recvFrame 0x1000 (BitVec.ofNat 32 data.length))) :: [] := by
  intro raw data notReady s
  refine ⟨?_, ?_, ?_, ?_, ?_, ?_, by simp [notReady], ?_, ?_, ?_, ?_, ?_⟩ <;> decide

/-- V50's script. -/
theorem witness_SendFrameSendsTheBuffer :
    let pending : List Word := [3, 1];
    let s := { scriptedBy (pending.map (Prod.mk Reg.txfifoSize) ++ (.txfifoSize, 0) :: []) with
      caller := [.issue (encode (.sendFrame 0x2000 3))] };
    s.specLiterals ∧ s.idle ∧ s.environment = .unconstrained ∧ s.cfg.pollLimit = none ∧ (∀ v ∈ pending, v ≠ 0) ∧
      (0x2000 : Word).toNat + (3 : Word).toNat ≤ 2 ^ s.cfg.addrWidth ∧
      s.caller = .issue (encode (.sendFrame 0x2000 3)) :: [] := by
  intro pending s
  refine ⟨?_, ?_, ?_, ?_, by simp [pending], ?_, ?_⟩ <;> decide

theorem witness_UnboundedWaitsNeverGiveUp :
    (let s := latched (scriptedBy [(.rxStatus, 0), (.rxStatus, 0xFFFFFFFE)]) (transfer .recvFrame .waitingForData 0x1000 1 0);
      s.specLiterals ∧ s.environment = .unconstrained ∧ s.cfg.pollLimit = none ∧ s.seq.curOp = some .recvFrame ∧
        s.seq.phase = .waitingForData ∧ (∀ v ∈ [(0 : Word), 0xFFFFFFFE], v.getLsbD 0 = false) ∧
        s.answers = [(0 : Word), 0xFFFFFFFE].map (Prod.mk Reg.rxStatus) ++ []) ∧
    (let s := latched (scriptedBy [(.rxfifoData, 0x800000FF)]) (transfer .recvFrame .draining 0x1000 1 0);
      s.specLiterals ∧ s.environment = .unconstrained ∧ s.cfg.pollLimit = none ∧ s.seq.curOp = some .recvFrame ∧
        s.seq.phase = .draining ∧ s.seq.offset ≠ s.seq.sizeL ∧ (∀ v ∈ [(0x800000FF : Word)], v.getLsbD 31 = true) ∧
        s.answers = [(0x800000FF : Word)].map (Prod.mk Reg.rxfifoData) ++ []) ∧
    (let s := latched (scriptedBy [(.txfifoSize, 1)]) (transfer .sendFrame .drainWait 0x2000 1 1);
      s.specLiterals ∧ s.environment = .unconstrained ∧ s.cfg.pollLimit = none ∧ s.seq.curOp = some .sendFrame ∧
        s.seq.phase = .drainWait ∧ (∀ v ∈ [(1 : Word)], v ≠ 0) ∧
        s.answers = [(1 : Word)].map (Prod.mk Reg.txfifoSize) ++ []) := by
  refine ⟨⟨?_, ?_, ?_, ?_, ?_, by simp, ?_⟩, ⟨?_, ?_, ?_, ?_, ?_, ?_, by simp, ?_⟩, ?_, ?_, ?_, ?_, ?_, by simp, ?_⟩ <;> decide

theorem witness_RecvFollowsTransitionTable :
    let s := latched (scriptedBy [(.rxfifoData, 0x41)]) (transfer .recvFrame .draining 0x1000 4 0);
    s.specLiterals ∧ s.seq.curOp = some .recvFrame ∧ Memory.wf s.mem = true ∧
      ∃ t, exec (.recvFrame 0x1000 4) s = .next t :=
  ⟨rfl, rfl, rfl, _, rfl⟩

theorem witness_SendFollowsTransitionTable :
    let s := latched base (transfer .sendFrame .filling 0x2000 3 0);
    s.specLiterals ∧ s.seq.curOp = some .sendFrame ∧ ∃ t, exec (.sendFrame 0x2000 3) s = .next t :=
  ⟨rfl, rfl, _, rfl⟩

/-- A draining step of an operation in progress that changes a byte of host memory. -/
theorem witness_StepIssuesAtMostOneTransaction :
    let s := latched (scriptedBy [(.rxfifoData, 0x41)]) (transfer .recvFrame .draining 0x1000 4 0);
    s.specLiterals ∧ s.seq.curOp ≠ none ∧
      onNext (step s) (fun t => Memory.read t.mem 0x1000 != Memory.read s.mem 0x1000) = true := by decide

theorem witness_OperationsWriteOnlyTheFrameBuffer :
    let s := latched (scriptedBy [(.rxfifoData, 0x41)]) (transfer .recvFrame .draining 0xFFFFFFFC 4 3);
    Memory.wf s.mem = true ∧
      onNext (exec (.recvFrame 0xFFFFFFFC 4) s)
        (fun t => Memory.read t.mem 0xFFFFFFFF != Memory.read s.mem 0xFFFFFFFF) = true := by decide

theorem witness_DirectionsAreNeverInterleaved : [Op.recvFrame, .sendFrame].all (fun op =>
    let s := latched base (transfer op .configuring 0x1000 4 0);
    decide s.specLiterals && s.seq.curOp == some op && onNext (step s) (fun _ => true)) = true := by decide

theorem witness_StepKeepsConfiguration : onNext (step base) (fun _ => true) = true := by decide

/-- A transfer that ends, an idle accessor whose caller does nothing, a command that ends at once, one that goes on, and an
illegal one. -/
theorem witness_ResultsComeOneAtATheEnd :
    (let s := latched base (transfer .recvFrame .done 0x1000 4 4);
      s.seq.curOp = some .recvFrame ∧ onNext (step s) (fun t => t.results.length == 1) = true) ∧
    (base.idle ∧ base.caller = [] ∧ onNext (step base) (fun t => t.results == []) = true) ∧
    [(0x210000001F9000000000, 1), (0x30000000000000000000, 0), (0x16080000000000000000, 1)].all (fun (c : Command × Nat) =>
      let s := { base with caller := [.issue c.1] };
      decide s.idle && s.caller == [.issue c.1] && onNext (step s) (fun t => t.results.length == c.2)) = true := by decide

/-- A transfer in progress, at the last byte of the address space, meets the invariant. -/
theorem witness_StepKeepsInvariant :
    (latched (scriptedBy [(.rxfifoData, 0x41)]) (transfer .recvFrame .draining 0xFFFFFFFC 4 3)).Inv ∧
      ∃ t, step (latched (scriptedBy [(.rxfifoData, 0x41)]) (transfer .recvFrame .draining 0xFFFFFFFC 4 3)) = .next t :=
  ⟨⟨by decide, by decide, by decide, by decide, by decide, by decide, by decide, by decide⟩, _, rfl⟩

theorem witness_MachineNeverStops : (latched (limited 1) (transfer .recvFrame .waitingForData 0x1000 1 0)).Inv :=
  ⟨by decide, by decide, by decide, by decide, by decide, by decide, by decide, by decide⟩

theorem witness_BusAddressesAreAlignedAndDisjoint :
    Config.wf { Config.vectors with base := 0xFFFFFFC0 } = true ∧ Reg.rxip ≠ Reg.txfifoSize := by decide

theorem witness_DeviceObeysControlCommands :
    (device Device.reset).specLiterals ∧ (device Device.reset).environment = .reference ∧ (3 : Word) ∉ ([0, 1, 2, 4] : List Word) ∧ (8 : Word) ∉ ([0, 1, 2, 4] : List Word) := by decide

theorem witness_DeviceServesTheBus :
    ((device Device.reset).specLiterals ∧ (device Device.reset).environment = .reference ∧ (device Device.reset).dev.rxFifo = []) ∧
      (device { Device.reset with rxFifo := [0x11, 0x22] }).dev.rxFifo = 0x11 :: [0x22] ∧
      (device Device.reset).regs.read .rxsize = some 0 ∧ Reg.rxStatus ≠ Reg.rxfifoData ∧
      Reg.status ∈ [Reg.status, .txStatus, .ctrl, .txfifoData] ∧
      (device { Device.reset with txFifo := List.replicate 15 0 }).dev.txFifo.length < base.cfg.txDepth ∧
      base.cfg.txDepth ≤ (device { Device.reset with txFifo := List.replicate 16 0 }).dev.txFifo.length := by decide

theorem witness_DeviceStepsKeepByteOrder :
    ({ Device.reset with rxFifo := List.replicate 16 0 } : Device).fifosBounded Config.vectors = true ∧
      Device.reset.enabled = false := by decide

theorem witness_ReceiveBeforeInitHangs :
    let s := latched (device Device.reset) (transfer .recvFrame .waitingForData 0x1000 1 0);
    s.environment = .reference ∧ s.dev.enabled = false ∧ s.dev.rxReady = false ∧ s.cfg.pollLimit = none ∧
      s.seq.curOp = some .recvFrame ∧ s.seq.phase = .waitingForData := by decide

end Sys2Proof.Tests
end

section
/-! SUPPORT. The statements about every step (10_state.md): what a step leaves of its surroundings, what the latches can
become in one step of an operation, and the invariant of the machine. -/

namespace Sys2Proof.Machine

/-! ## What every shape of a step keeps -/

/-- No shape of a step touches the configuration, the caller's actions, the environment or the schedule. -/
theorem stepShape_sameSetting {s t : State} (h : stepShape s t) : sameSetting s t := by
  obtain ⟨q, rs, -, rfl | ⟨r, rfl⟩ | ⟨r, v, -, rfl⟩ | ⟨-, -, -, -, rfl⟩⟩ := h
  · exact ⟨rfl, rfl, rfl, rfl⟩
  · simp [sameSetting]
  · simp [sameSetting]
  · simp [sameSetting]

theorem exec_sameSetting {i : Instr} {s t : State} (h : exec i s = .next t) : sameSetting s t :=
  stepShape_sameSetting (exec_shape h)

/-- The only shape that stores a byte of host memory is the delivery of a byte while `RECV_FRAME` drains. -/
theorem stepShape_mem {s t : State} (h : stepShape s t) :
    t.mem = s.mem ∨
      (s.seq.curOp = some .recvFrame ∧ s.seq.phase = .draining ∧ s.seq.offset ≠ s.seq.sizeL ∧
        ∃ b, t.mem = Memory.write s.mem (s.bufferAddress s.seq.offset) b) := by
  obtain ⟨q, rs, -, rfl | ⟨r, rfl⟩ | ⟨r, v, -, rfl⟩ | ⟨hop, hphase, hne, -, rfl⟩⟩ := h
  · exact .inl rfl
  · exact .inl (State.busRead_mem s r)
  · exact .inl rfl
  · refine .inr ⟨hop, hphase, hne, fifoByte s.cfg.literals (s.readValue .rxfifoData), ?_⟩
    simp only [State.memWrite_mem, State.busRead_mem]

/-- A word that is taken is run, or refused with a result word. -/
theorem takeCommand_next {s t : State} {w : Command} (h : s.takeCommand w = .next t) :
    t = s.raise .illegalCommand ∨ ∃ i, exec i s = .next t := by
  unfold State.takeCommand at h
  split at h
  · cases h
    exact .inl rfl
  · exact .inr ⟨_, h⟩

/-- What the accessor does in one step, once the peripheral has moved: nothing, the caller's own store, the refusal of an
illegal word, or one step of an operation. -/
theorem step_next {s t : State} (h : step s = .next t) :
    t = s.peripheralMoves ∨
      (∃ rest a v, t = ({ s.peripheralMoves with caller := rest } : State).callerStore a v) ∨
      (∃ rest, t = ({ s.peripheralMoves with caller := rest } : State).raise .illegalCommand) ∨
      (∃ rest i, exec i { s.peripheralMoves with caller := rest } = .next t) := by
  cases hop : s.seq.curOp with
  | some op =>
    rw [step_running hop] at h
    exact .inr (.inr (.inr ⟨s.peripheralMoves.caller, _, h⟩))
  | none =>
    rw [step_idle hop] at h
    unfold State.idleStep at h
    split at h
    · cases h
      exact .inl rfl
    · cases h
      exact .inr (.inl ⟨_, _, _, rfl⟩)
    · obtain rfl | ⟨i, hi⟩ := takeCommand_next h
      · exact .inr (.inr (.inl ⟨_, rfl⟩))
      · exact .inr (.inr (.inr ⟨_, i, hi⟩))

/-! ## What the latches can become in one step -/

/-- No operation is in progress and the phase is `Idle`. -/
def Latches.atRest (q : Latches) : Prop := q.curOp = none ∧ q.phase = .idle

/-- The rows of 42_frame_transfer_engine.md R197 for `RECV_FRAME` in progress, by what they leave in the latches. -/
inductive Latches.RecvRow (c : Config) (q : Latches) : Latches → Prop
  | sizeWritten (hp : q.phase = .configuring) (hsub : q.subStep = 0) : RecvRow c q { q with subStep := 1 }
  | started (hp : q.phase = .configuring) (hsub : q.subStep = 1) :
      RecvRow c q { q with subStep := 2, phase := .waitingForData, polls := 0 }
  | notReady (v : Word) (hp : q.phase = .waitingForData) (hl : c.pollLimit ≠ some q.polls) :
      RecvRow c q { q with tmp := v, polls := q.polls + 1 }
  | ready (v : Word) (hp : q.phase = .waitingForData) :
      RecvRow c q { q with tmp := v, offset := 0, phase := .draining, polls := 0 }
  | fifoEmpty (v : Word) (hp : q.phase = .draining) (hne : q.offset ≠ q.sizeL)
      (hl : c.pollLimit ≠ some (q.polls + 1)) :
      RecvRow c q { q with tmp := v, polls := q.polls + 1 }
  | delivered (v : Word) (hp : q.phase = .draining) (hne : q.offset ≠ q.sizeL) :
      RecvRow c q { q with tmp := v, offset := q.offset + 1, polls := 0 }
  | drained (hp : q.phase = .draining) (he : q.offset = q.sizeL) : RecvRow c q { q with phase := .done }

/-- The rows of R197 for `SEND_FRAME` in progress, by what they leave in the latches. -/
inductive Latches.SendRow (c : Config) (q : Latches) : Latches → Prop
  | sizeWritten (hp : q.phase = .configuring) (hsub : q.subStep = 0) : SendRow c q { q with subStep := 1 }
  | started (hp : q.phase = .configuring) (hsub : q.subStep = 1) :
      SendRow c q { q with subStep := 2, offset := 0, phase := .filling }
  | filled (hp : q.phase = .filling) (hne : q.offset ≠ q.sizeL) : SendRow c q { q with offset := q.offset + 1 }
  | allFilled (hp : q.phase = .filling) (he : q.offset = q.sizeL) :
      SendRow c q { q with phase := .drainWait, polls := 0 }
  | notDrained (v : Word) (hp : q.phase = .drainWait) (hl : c.pollLimit ≠ some q.polls) :
      SendRow c q { q with tmp := v, polls := q.polls + 1 }
  | drained (v : Word) (hp : q.phase = .drainWait) :
      SendRow c q { q with tmp := v, polls := q.polls + 1, phase := .done }

/-- What one step of operation `op` can make of the latches `q`: the operation ends, or it is left in progress by the read
half of a read-modify-write, a write of `INIT`, the acceptance of a transfer, or a row of R197. -/
inductive Latches.Next (c : Config) (q : Latches) : Op → Latches → Prop
  | ends {op : Op} {q' : Latches} (h : q'.atRest) : Next c q op q'
  | readHalf {op : Op} {q' : Latches} (hmod : op ∈ [Op.setBits, .clearBits, .writeBits]) (hidle : q.curOp = none)
      (hop : q'.curOp = some op) (hp : q'.phase = q.phase) (hd : q'.readDone = true)
      (hw : namesWritable q'.opndReg = true) : Next c q op q'
  | initWrite {q' : Latches} (hq : q.curOp = none ∨ q.curOp = some .init) (hop : q'.curOp = some .init)
      (hp : q'.phase = q.phase) : Next c q .init q'
  | accepted {op : Op} {q' : Latches} (htr : op ∈ [Op.recvFrame, .sendFrame]) (hop : q'.curOp = some op)
      (hp : q'.phase = .configuring) (hsub : q'.subStep = 0) (hl : q'.transferLatched c = true) : Next c q op q'
  | recv {q' : Latches} (hop : q.curOp = some .recvFrame) (h : q.RecvRow c q') : Next c q .recvFrame q'
  | send {q' : Latches} (hop : q.curOp = some .sendFrame) (h : q.SendRow c q') : Next c q .sendFrame q'

theorem Latches.RecvRow.curOp {c : Config} {q q' : Latches} (h : q.RecvRow c q') : q'.curOp = q.curOp := by
  cases h <;> rfl

theorem Latches.RecvRow.transferLatched {c : Config} {q q' : Latches} (h : q.RecvRow c q') :
    q'.transferLatched c = q.transferLatched c := by
  cases h <;> rfl

theorem Latches.SendRow.curOp {c : Config} {q q' : Latches} (h : q.SendRow c q') : q'.curOp = q.curOp := by
  cases h <;> rfl

theorem Latches.SendRow.transferLatched {c : Config} {q q' : Latches} (h : q.SendRow c q') :
    q'.transferLatched c = q.transferLatched c := by
  cases h <;> rfl

theorem namesWritable_of_writeTarget {id : BitVec 8} {r : Reg} (h : writeTarget id = .ok r) :
    namesWritable id = true := by
  unfold namesWritable
  rw [h]

theorem readOperation_atRest {s t : State} {op : Op} {reg : BitVec 8} {a : Word} {f : Word → Word}
    (h : s.readOperation op reg a f = .next t) : t.seq.atRest := by
  obtain ⟨-, h⟩ := State.whenIdle_next h
  split at h <;> cases h <;> exact ⟨rfl, rfl⟩

theorem encodingResult_atRest {s t : State} {op : Op} {a b v : Word} (h : s.encodingResult op a b v = .next t) :
    t.seq.atRest := by
  cases h
  exact ⟨rfl, rfl⟩

theorem regWrite_atRest {s t : State} {reg : BitVec 8} {v : Word} (h : execRegWrite reg v s = .next t) :
    t.seq.atRest := by
  obtain ⟨-, h⟩ := State.whenIdle_next h
  split at h <;> cases h <;> exact ⟨rfl, rfl⟩

theorem parseIpv4_atRest {s t : State} {a b : Word} (h : execParseIpv4 a b s = .next t) : t.seq.atRest := by
  obtain ⟨-, h⟩ := State.whenIdle_next h
  split at h
  · cases h
    exact ⟨rfl, rfl⟩
  · exact encodingResult_atRest h

theorem readModifyWrite_seq {s t : State} {op : Op} {reg : BitVec 8} {a b : Word} {f : Word → Word}
    (hmod : op ∈ [Op.setBits, .clearBits, .writeBits]) (h : s.readModifyWrite op reg a b f = .next t) :
    s.seq.Next s.cfg op t.seq := by
  unfold State.readModifyWrite at h
  split at h
  · obtain ⟨-, h⟩ := State.whenIdle_next h
    cases h
    exact .ends ⟨rfl, rfl⟩
  · rename_i r hr
    obtain ⟨hidle, h⟩ | ⟨-, h⟩ := State.firstOrNext_next h
    · cases h
      exact .readHalf hmod hidle rfl rfl rfl (namesWritable_of_writeTarget hr)
    · split at h <;> cases h
      exact .ends ⟨rfl, rfl⟩

/-- A step of `INIT` latches only `sub_step`, or ends the operation. -/
theorem initStep_seq {s t : State} (h : s.initStep = .next t) :
    (∃ n, t.seq = { s.seq with subStep := n }) ∨ t.seq.atRest := by
  unfold State.initStep at h
  split at h <;> cases h
  · exact .inl ⟨1, rfl⟩
  · exact .inl ⟨2, rfl⟩
  · exact .inl ⟨3, rfl⟩
  · exact .inl ⟨4, rfl⟩
  · exact .inl ⟨5, rfl⟩
  · exact .inr ⟨rfl, rfl⟩

theorem init_seq {s t : State} (h : execInit s = .next t) : s.seq.Next s.cfg .init t.seq := by
  obtain ⟨hidle, h⟩ | ⟨hop, h⟩ := State.firstOrNext_next h
  · cases h
    exact .initWrite (.inl hidle) rfl rfl
  · obtain ⟨n, hn⟩ | hrest := initStep_seq h
    · exact .initWrite (.inr hop) (by rw [hn]; exact hop) (by rw [hn])
    · exact .ends hrest

theorem acceptTransfer_seq {s t : State} {op : Op} {a b : Word} (htr : op ∈ [Op.recvFrame, .sendFrame])
    (h : s.acceptTransfer op a b = .next t) : s.seq.Next s.cfg op t.seq := by
  unfold State.acceptTransfer at h
  split at h <;> cases h
  · exact .ends ⟨rfl, rfl⟩
  · rename_i hrange
    refine .accepted htr rfl rfl rfl ?_
    simpa [Latches.transferLatched, badRange] using hrange

theorem configureStep_next {s t : State} {r : Reg} {w : Word} {f : State → State}
    (h : s.configureStep r w f = .next t) :
    (s.seq.subStep = 0 ∧ t.seq = { s.seq with subStep := 1 }) ∨
      (s.seq.subStep = 1 ∧ ∃ u : State, u.seq = { s.seq with subStep := 2 } ∧ t = f u) := by
  unfold State.configureStep at h
  split at h <;> cases h
  · exact .inl ⟨‹_›, rfl⟩
  · exact .inr ⟨‹_›, _, rfl, rfl⟩

theorem pollStep_next {s t : State} {r : Reg} {p : Word → Bool} {e : Ending} {f : State → State}
    (h : s.pollStep r p e f = .next t) :
    t = s.raise e ∨ (s.cfg.pollLimit ≠ some s.seq.polls ∧ ∃ u : State,
      u.seq = { s.seq with tmp := s.readValue r, polls := s.seq.polls + 1 } ∧ (t = u ∨ t = f u)) := by
  by_cases hl : s.cfg.pollLimit = some s.seq.polls
  · rw [State.pollStep_exhausted hl] at h
    cases h
    exact .inl rfl
  refine .inr ⟨hl, (s.busRead r).setPolls (s.seq.polls + 1), rfl, ?_⟩
  cases hp : p (s.readValue r) with
  | true =>
    rw [State.pollStep_leaves hl hp] at h
    cases h
    exact .inr rfl
  | false =>
    rw [State.pollStep_stays hl hp] at h
    cases h
    exact .inl rfl

theorem drainStep_row {s t : State} (hp : s.seq.phase = .draining) (h : s.drainStep = .next t) :
    t.seq.atRest ∨ s.seq.RecvRow s.cfg t.seq := by
  by_cases he : s.seq.offset = s.seq.sizeL
  · rw [State.drainStep_done he] at h
    cases h
    exact .inr (.drained hp he)
  cases hb : fifoEmptyBit s.cfg.literals (s.readValue .rxfifoData) with
  | false =>
    rw [State.drainStep_delivers he hb] at h
    cases h
    exact .inr (.delivered _ hp he)
  | true =>
    by_cases hl : s.cfg.pollLimit = some (s.seq.polls + 1)
    · rw [State.drainStep_exhausted he hb hl] at h
      cases h
      exact .inl ⟨rfl, rfl⟩
    · rw [State.drainStep_empty he hb hl] at h
      cases h
      exact .inr (.fifoEmpty _ hp he hl)

theorem fillStep_row {s t : State} (hp : s.seq.phase = .filling) (h : s.fillStep = .next t) :
    s.seq.SendRow s.cfg t.seq := by
  unfold State.fillStep at h
  split at h <;> cases h
  · exact .allFilled hp ‹_›
  · exact .filled hp ‹_›

/-- A step of `RECV_FRAME` in progress ends it or is one of its rows of R197. -/
theorem recvStep_row {s t : State} (h : s.recvStep = .next t) : t.seq.atRest ∨ s.seq.RecvRow s.cfg t.seq := by
  unfold State.recvStep at h
  split at h
  · rename_i hp
    obtain ⟨hsub, ht⟩ | ⟨hsub, u, hu, rfl⟩ := configureStep_next h
    · exact .inr (ht ▸ .sizeWritten hp hsub)
    · simp only [State.setPolls_seq, State.setPhase_seq, hu]
      exact .inr (.started hp hsub)
  · rename_i hp
    obtain rfl | ⟨hl, u, hu, rfl | rfl⟩ := pollStep_next h
    · exact .inl ⟨rfl, rfl⟩
    · exact .inr (hu ▸ .notReady _ hp hl)
    · simp only [State.setPolls_seq, State.setPhase_seq, State.setOffset_seq, hu]
      exact .inr (.ready _ hp)
  · exact drainStep_row ‹_› h
  · cases h
    exact .inl ⟨rfl, rfl⟩
  all_goals cases h

/-- A step of `SEND_FRAME` in progress ends it or is one of its rows of R197. -/
theorem sendStep_row {s t : State} (h : s.sendStep = .next t) : t.seq.atRest ∨ s.seq.SendRow s.cfg t.seq := by
  unfold State.sendStep at h
  split at h
  · rename_i hp
    obtain ⟨hsub, ht⟩ | ⟨hsub, u, hu, rfl⟩ := configureStep_next h
    · exact .inr (ht ▸ .sizeWritten hp hsub)
    · simp only [State.setPhase_seq, State.setOffset_seq, hu]
      exact .inr (.started hp hsub)
  · exact .inr (fillStep_row ‹_› h)
  · rename_i hp
    obtain rfl | ⟨hl, u, hu, rfl | rfl⟩ := pollStep_next h
    · exact .inl ⟨rfl, rfl⟩
    · exact .inr (hu ▸ .notDrained _ hp hl)
    · simp only [State.setPhase_seq, hu]
      exact .inr (.drained _ hp)
  · cases h
    exact .inl ⟨rfl, rfl⟩
  all_goals cases h

/-- Whatever operation runs, its step makes of the latches what `Latches.Next` lists. -/
theorem exec_seq {i : Instr} {s t : State} (h : exec i s = .next t) : s.seq.Next s.cfg i.op t.seq := by
  cases i with
  | regRead reg => exact .ends (readOperation_atRest ((exec_regRead s reg).symm.trans h))
  | regWrite reg v => exact .ends (regWrite_atRest h)
  | setBits reg m => exact readModifyWrite_seq (by simp [Instr.op]) ((exec_setBits s reg m).symm.trans h)
  | clearBits reg m => exact readModifyWrite_seq (by simp [Instr.op]) ((exec_clearBits s reg m).symm.trans h)
  | readBits reg m => exact .ends (readOperation_atRest ((exec_readBits s reg m).symm.trans h))
  | writeBits reg c m => exact readModifyWrite_seq (by simp [Instr.op]) ((exec_writeBits s reg c m).symm.trans h)
  | parseIpv4 a b => exact .ends (parseIpv4_atRest h)
  | hton16 v => exact .ends (encodingResult_atRest (State.whenIdle_next h).2)
  | hton32 v => exact .ends (encodingResult_atRest (State.whenIdle_next h).2)
  | init => exact init_seq h
  | recvFrame a b =>
    obtain ⟨-, h⟩ | ⟨hop, h⟩ := State.firstOrNext_next h
    · exact acceptTransfer_seq (by simp [Instr.op]) h
    · exact (recvStep_row h).elim .ends (.recv hop)
  | sendFrame a b =>
    obtain ⟨-, h⟩ | ⟨hop, h⟩ := State.firstOrNext_next h
    · exact acceptTransfer_seq (by simp [Instr.op]) h
    · exact (sendStep_row h).elim .ends (.send hop)

/-- A step of an operation leaves that operation in progress, or none. -/
theorem Latches.Next.curOp {c : Config} {q q' : Latches} {op : Op} (h : q.Next c op q') :
    q'.curOp = some op ∨ q'.curOp = none := by
  cases h with
  | ends h => exact .inr h.1
  | readHalf _ _ hop => exact .inl hop
  | initWrite _ hop => exact .inl hop
  | accepted _ hop => exact .inl hop
  | recv hop h => exact .inl (h.curOp.trans hop)
  | send hop h => exact .inl (h.curOp.trans hop)

/-! ## Legal sequencing states -/

/-- The sequencing state is legal and the polls are within the limit. -/
def Latches.sequenced (c : Config) (q : Latches) : Prop := q.legal c = true ∧ q.pollsWithin c = true

/-- What the limit asks of the two loops that test it before a read, and of `Draining`, which tests it after one. -/
theorem Latches.pollsWithin_iff {c : Config} {q : Latches} :
    q.pollsWithin c = true ↔ ∀ n, c.pollLimit = some n →
      (q.phase = .waitingForData ∨ q.phase = .drainWait → q.polls ≤ n) ∧ (q.phase = .draining → q.polls < n) := by
  unfold Latches.pollsWithin
  cases c.pollLimit with
  | none => simp
  | some n => cases q.phase <;> simp

/-- Outside the three poll loops the polls do not count. -/
theorem Latches.pollsWithin_of_not_polling {c : Config} {q : Latches}
    (h : q.phase ∉ [Phase.waitingForData, .draining, .drainWait]) : q.pollsWithin c = true :=
  Latches.pollsWithin_iff.2 (by simp_all)

/-- What a legal state asks of the phase of `RECV_FRAME`, with what it asks of `sub_step` and `offset` there. -/
def Latches.recvPhaseLegal (q : Latches) : Prop :=
  (q.phase = .configuring ∧ (q.subStep = 0 ∨ q.subStep = 1)) ∨ q.phase = .waitingForData ∨
    (q.phase = .draining ∧ q.offset.toNat ≤ q.sizeL.toNat) ∨ (q.phase = .done ∧ q.offset = q.sizeL)

theorem Latches.legal_iff_of_recv {c : Config} {q : Latches} (hop : q.curOp = some .recvFrame) :
    q.legal c = true ↔ q.transferLatched c = true ∧ q.recvPhaseLegal := by
  unfold Latches.legal Latches.recvPhaseLegal
  cases hp : q.phase <;> simp [hop]

/-- What a legal state asks of the phase of `SEND_FRAME`. -/
def Latches.sendPhaseLegal (q : Latches) : Prop :=
  (q.phase = .configuring ∧ (q.subStep = 0 ∨ q.subStep = 1)) ∨
    (q.phase = .filling ∧ q.offset.toNat ≤ q.sizeL.toNat) ∨
    ((q.phase = .drainWait ∨ q.phase = .done) ∧ q.offset = q.sizeL)

theorem Latches.legal_iff_of_send {c : Config} {q : Latches} (hop : q.curOp = some .sendFrame) :
    q.legal c = true ↔ q.transferLatched c = true ∧ q.sendPhaseLegal := by
  unfold Latches.legal Latches.sendPhaseLegal
  cases hp : q.phase <;> simp [hop]

theorem Latches.atRest.sequenced {c : Config} {q : Latches} (h : q.atRest) : q.sequenced c := by
  obtain ⟨hop, hp⟩ := h
  exact ⟨by simp [Latches.legal, hop, hp], Latches.pollsWithin_of_not_polling (by simp [hp])⟩

theorem Latches.phase_idle_of_legal {c : Config} {q : Latches} (h : q.legal c = true)
    (hop : q.curOp = none ∨ q.curOp = some .init) : q.phase = .idle := by
  rcases hop with hop | hop <;> simpa [Latches.legal, hop] using h

/-- Below the end of the frame the next offset is still within it. -/
theorem offset_succ_le {offset size : Word} (hle : offset.toNat ≤ size.toNat) (hne : offset ≠ size) :
    (offset + 1).toNat ≤ size.toNat := by
  bv_omega

theorem Latches.RecvRow.legal {c : Config} {q q' : Latches} (hop : q.curOp = some .recvFrame)
    (hq : q.legal c = true) (h : q.RecvRow c q') : q'.legal c = true := by
  obtain ⟨hlatched, hphase⟩ := (Latches.legal_iff_of_recv hop).1 hq
  rw [Latches.legal_iff_of_recv (h.curOp.trans hop), h.transferLatched]
  refine ⟨hlatched, ?_⟩
  unfold Latches.recvPhaseLegal at hphase ⊢
  cases h with
  | sizeWritten hp hsub => simp [hp]
  | started hp hsub => simp
  | notReady v hp hl => simp [hp]
  | ready v hp => simp
  | fifoEmpty v hp hne hl => simpa [hp] using hphase
  | delivered v hp hne =>
    have hle : q.offset.toNat ≤ q.sizeL.toNat := by simpa [hp] using hphase
    simpa [hp] using offset_succ_le hle hne
  | drained hp he => simp [he]

theorem Latches.RecvRow.pollsWithin {c : Config} {q q' : Latches} (hpos : c.pollLimit ≠ some 0)
    (hq : q.pollsWithin c = true) (h : q.RecvRow c q') : q'.pollsWithin c = true := by
  refine Latches.pollsWithin_iff.2 fun n hn => ?_
  obtain ⟨hwait, hdrain⟩ := Latches.pollsWithin_iff.1 hq n hn
  have hn0 : n ≠ 0 := fun he => hpos (he ▸ hn)
  cases h with
  | sizeWritten hp hsub => simp [hp]
  | started hp hsub => simp
  | notReady v hp hl =>
    have hlt : q.polls < n := lt_of_le_of_ne (hwait (.inl hp)) fun he => hl (he ▸ hn)
    simpa [hp] using hlt
  | ready v hp => simp [Nat.pos_of_ne_zero hn0]
  | fifoEmpty v hp hne hl =>
    have hlt : q.polls + 1 < n := lt_of_le_of_ne (hdrain hp) fun he => hl (he ▸ hn)
    simpa [hp] using hlt
  | delivered v hp hne => simp [hp, Nat.pos_of_ne_zero hn0]
  | drained hp he => simp

theorem Latches.SendRow.legal {c : Config} {q q' : Latches} (hop : q.curOp = some .sendFrame)
    (hq : q.legal c = true) (h : q.SendRow c q') : q'.legal c = true := by
  obtain ⟨hlatched, hphase⟩ := (Latches.legal_iff_of_send hop).1 hq
  rw [Latches.legal_iff_of_send (h.curOp.trans hop), h.transferLatched]
  refine ⟨hlatched, ?_⟩
  unfold Latches.sendPhaseLegal at hphase ⊢
  cases h with
  | sizeWritten hp hsub => simp [hp]
  | started hp hsub => simp
  | filled hp hne =>
    have hle : q.offset.toNat ≤ q.sizeL.toNat := by simpa [hp] using hphase
    simpa [hp] using offset_succ_le hle hne
  | allFilled hp he => simp [he]
  | notDrained v hp hl => simpa [hp] using hphase
  | drained v hp => simpa [hp] using hphase

theorem Latches.SendRow.pollsWithin {c : Config} {q q' : Latches} (hq : q.pollsWithin c = true)
    (h : q.SendRow c q') : q'.pollsWithin c = true := by
  refine Latches.pollsWithin_iff.2 fun n hn => ?_
  obtain ⟨hwait, -⟩ := Latches.pollsWithin_iff.1 hq n hn
  cases h with
  | sizeWritten hp hsub => simp [hp]
  | started hp hsub => simp
  | filled hp hne => simp [hp]
  | allFilled hp he => simp
  | notDrained v hp hl =>
    have hlt : q.polls < n := lt_of_le_of_ne (hwait (.inr hp)) fun he => hl (he ▸ hn)
    simpa [hp] using hlt
  | drained v hp => simp

/-- The read half of a read-modify-write leaves a legal state. -/
theorem Latches.legal_of_readDone {c : Config} {q : Latches} {op : Op}
    (hmod : op ∈ [Op.setBits, .clearBits, .writeBits]) (hop : q.curOp = some op) (hp : q.phase = .idle)
    (hd : q.readDone = true) (hw : namesWritable q.opndReg = true) : q.legal c = true := by
  simp only [List.mem_cons, List.not_mem_nil, or_false] at hmod
  obtain rfl | rfl | rfl := hmod <;> simp [Latches.legal, hop, hp, hd, hw]

/-- An accepted transfer is in a legal state. -/
theorem Latches.legal_of_accepted {c : Config} {q : Latches} {op : Op} (htr : op ∈ [Op.recvFrame, .sendFrame])
    (hop : q.curOp = some op) (hp : q.phase = .configuring) (hsub : q.subStep = 0)
    (hl : q.transferLatched c = true) : q.legal c = true := by
  simp only [List.mem_cons, List.not_mem_nil, or_false] at htr
  obtain rfl | rfl := htr <;> simp [Latches.legal, hop, hp, hsub, hl]

/-- One step of an operation leads from a legal sequencing state to a legal one (10_state.md R22, R23). -/
theorem Latches.Next.sequenced {c : Config} {q q' : Latches} {op : Op} (hpos : c.pollLimit ≠ some 0)
    (hq : q.sequenced c) (h : q.Next c op q') : q'.sequenced c := by
  obtain ⟨hlegal, hpolls⟩ := hq
  cases h with
  | ends h => exact h.sequenced
  | readHalf hmod hidle hop hp hd hw =>
    rw [Latches.phase_idle_of_legal hlegal (.inl hidle)] at hp
    exact ⟨Latches.legal_of_readDone hmod hop hp hd hw, Latches.pollsWithin_of_not_polling (by simp [hp])⟩
  | initWrite hold hop hp =>
    rw [Latches.phase_idle_of_legal hlegal hold] at hp
    exact ⟨by simp [Latches.legal, hop, hp], Latches.pollsWithin_of_not_polling (by simp [hp])⟩
  | accepted htr hop hp hsub hl =>
    exact ⟨Latches.legal_of_accepted htr hop hp hsub hl, Latches.pollsWithin_of_not_polling (by simp [hp])⟩
  | recv hop h => exact ⟨h.legal hop hlegal, h.pollsWithin hpos hpolls⟩
  | send hop h => exact ⟨h.legal hop hlegal, h.pollsWithin hpolls⟩

/-! ## The FIFOs of the reference device -/

theorem Device.fifosBounded_iff {c : Config} {d : Device} :
    d.fifosBounded c = true ↔ d.rxFifo.length ≤ c.rxDepth ∧ d.txFifo.length ≤ c.txDepth := by
  simp [Device.fifosBounded]

/-- A byte arrives only when there is room for it (R230). -/
theorem Device.rxByteStep_fifosBounded {c : Config} {d : Device} (h : d.fifosBounded c = true) :
    (d.rxByteStep c.rxDepth).fifosBounded c = true := by
  unfold Device.rxByteStep
  split
  · exact h
  · split
    · rename_i hroom
      obtain ⟨-, -, -, hlt⟩ := hroom
      exact Device.fifosBounded_iff.2 ⟨by simpa using hlt, (Device.fifosBounded_iff.1 h).2⟩
    · exact h

/-- A byte that leaves shortens the transmit FIFO (R230). -/
theorem Device.txByteStep_fifosBounded {c : Config} {d : Device} (h : d.fifosBounded c = true) :
    d.txByteStep.fifosBounded c = true := by
  obtain ⟨hrx, htx⟩ := Device.fifosBounded_iff.1 h
  unfold Device.txByteStep
  split
  · exact h
  · rename_i hfifo
    rw [hfifo] at htx
    split
    · exact Device.fifosBounded_iff.2 ⟨hrx, Nat.le_of_succ_le htx⟩
    · exact h

theorem Device.move_fifosBounded {c : Config} {d : Device} (m : DeviceMove) (h : d.fifosBounded c = true) :
    (d.move c m).fifosBounded c = true := by
  cases m with
  | rxByte => exact Device.rxByteStep_fifosBounded h
  | txByte => exact Device.txByteStep_fifosBounded h

theorem Device.moves_fifosBounded {c : Config} {d : Device} (ms : List DeviceMove) (h : d.fifosBounded c = true) :
    (d.moves c ms).fifosBounded c = true := by
  induction ms generalizing d with
  | nil => exact h
  | cons m ms ih => exact ih (Device.move_fifosBounded m h)

/-- A read takes at most one byte from the receive FIFO. -/
theorem Device.afterRead_fifosBounded {c : Config} {d : Device} (r : Reg) (h : d.fifosBounded c = true) :
    (d.afterRead r).fifosBounded c = true := by
  obtain ⟨hrx, htx⟩ := Device.fifosBounded_iff.1 h
  unfold Device.afterRead
  split
  · exact Device.fifosBounded_iff.2 ⟨by simpa using hrx.trans (Nat.le_succ _), htx⟩
  · exact h

/-- A command changes no FIFO (R226). -/
theorem Device.command_fifosBounded {c : Config} {d : Device} (l : Literals) (g : Storage) (v : Word) :
    (d.command l g v).fifosBounded c = d.fifosBounded c := by
  unfold Device.command
  repeat' split
  all_goals rfl

/-- A byte is queued only when there is room (R228). -/
theorem Device.push_fifosBounded {c : Config} {d : Device} (l : Literals) (v : Word) (h : d.fifosBounded c = true) :
    (d.push l c.txDepth v).fifosBounded c = true := by
  obtain ⟨hrx, htx⟩ := Device.fifosBounded_iff.1 h
  unfold Device.push
  split
  · rename_i hroom
    exact Device.fifosBounded_iff.2 ⟨hrx, by simpa using hroom⟩
  · exact h

theorem Device.write_fifosBounded {c : Config} {d : Device} (g : Storage) (r : Reg) (v : Word)
    (h : d.fifosBounded c = true) : (d.write c g r v).fifosBounded c = true := by
  unfold Device.write
  split
  · rwa [Device.command_fifosBounded]
  · split
    · exact Device.push_fifosBounded _ v h
    · exact h

/-! ## The invariant, one rule per update of the state -/

theorem State.Inv.withCaller {s : State} (hs : s.Inv) (rest : List CallerAction) :
    ({ s with caller := rest } : State).Inv :=
  ⟨hs.memCanonical, hs.memBelow, hs.limitPositive, hs.sequencing, hs.polls, hs.traceAllowed, hs.resultsLegal, hs.fifos⟩

theorem resultsLegal_of_grow {s : State} {rs : List ResultWord} (h : s.results.all resultLegal = true)
    (hrs : resultsGrow s rs) : rs.all resultLegal = true := by
  obtain rfl | ⟨e, v, hev, rfl⟩ := hrs
  · exact h
  · simp [h, resultLegal_word e v hev]

theorem State.Inv.withSeqResults {s : State} (hs : s.Inv) {q : Latches} {rs : List ResultWord}
    (hq : q.sequenced s.cfg) (hrs : resultsGrow s rs) : ({ s with seq := q, results := rs } : State).Inv :=
  ⟨hs.memCanonical, hs.memBelow, hs.limitPositive, hq.1, hq.2, hs.traceAllowed,
    resultsLegal_of_grow hs.resultsLegal hrs, hs.fifos⟩

theorem State.Inv.memWrite {s : State} (hs : s.Inv) {a : Nat} (ha : a < 2 ^ s.cfg.addrWidth) (v : Byte) :
    (s.memWrite a v).Inv :=
  ⟨Memory.write_wf _ a v hs.memCanonical, Memory.write_below _ _ a v ha hs.memBelow, hs.limitPositive, hs.sequencing,
    hs.polls, hs.traceAllowed, hs.resultsLegal, hs.fifos⟩

theorem State.afterRead_fifosBounded {s : State} (r : Reg) (h : s.dev.fifosBounded s.cfg = true) :
    (s.afterRead r).dev.fifosBounded s.cfg = true := by
  unfold State.afterRead
  split
  · exact h
  · split
    · split <;> exact h
    · exact Device.afterRead_fifosBounded r h

theorem State.Inv.busRead {s : State} (hs : s.Inv) (r : Reg) : (s.busRead r).Inv where
  memCanonical := by simpa using hs.memCanonical
  memBelow := by simpa using hs.memBelow
  limitPositive := by simpa using hs.limitPositive
  sequencing := by
    rw [State.busRead_cfg]
    exact hs.sequencing
  polls := by
    rw [State.busRead_cfg]
    exact hs.polls
  traceAllowed := by simp [hs.traceAllowed, BusEvent.allowed]
  resultsLegal := by simpa using hs.resultsLegal
  fifos := by simpa using State.afterRead_fifosBounded r hs.fifos

theorem State.Inv.busWrite {s : State} (hs : s.Inv) {r : Reg} (hr : writable r = true) (v : Word) :
    (s.busWrite r v).Inv where
  memCanonical := hs.memCanonical
  memBelow := hs.memBelow
  limitPositive := hs.limitPositive
  sequencing := hs.sequencing
  polls := hs.polls
  traceAllowed := by simp [hs.traceAllowed, BusEvent.allowed, hr]
  resultsLegal := hs.resultsLegal
  fifos := by
    rw [State.busWrite_dev, State.busWrite_cfg]
    unfold State.deviceAfterWrite
    split
    · exact hs.fifos
    · exact Device.write_fifosBounded _ r v hs.fifos

theorem State.peripheralMoves_fifosBounded {s : State} (h : s.dev.fifosBounded s.cfg = true) :
    s.peripheralMoves.dev.fifosBounded s.cfg = true := by
  unfold State.peripheralMoves
  split
  · exact h
  · split <;> exact Device.moves_fifosBounded _ h

theorem State.Inv.peripheralMoves {s : State} (hs : s.Inv) : s.peripheralMoves.Inv where
  memCanonical := by simpa using hs.memCanonical
  memBelow := by simpa using hs.memBelow
  limitPositive := by simpa using hs.limitPositive
  sequencing := by simpa using hs.sequencing
  polls := by simpa using hs.polls
  traceAllowed := by simpa using hs.traceAllowed
  resultsLegal := by simpa using hs.resultsLegal
  fifos := by simpa using State.peripheralMoves_fifosBounded hs.fifos

/-- The results grow from the state after a bus read as they do from the state before it. -/
theorem resultsGrow_busRead {s : State} {rs : List ResultWord} (r : Reg) (h : resultsGrow s rs) :
    resultsGrow (s.busRead r) rs := by
  unfold resultsGrow
  rwa [State.busRead_results]

/-- A step of any shape that leaves a legal sequencing state keeps the invariant. -/
theorem State.Inv.of_stepShape {s t : State} (hs : s.Inv) (h : stepShape s t) (hq : t.seq.sequenced s.cfg) :
    t.Inv := by
  obtain ⟨q, rs, hrs, rfl | ⟨r, rfl⟩ | ⟨r, v, hr, rfl⟩ | ⟨-, -, -, -, rfl⟩⟩ := h
  · exact hs.withSeqResults hq hrs
  · exact (hs.busRead r).withSeqResults (by rwa [State.busRead_cfg]) (resultsGrow_busRead r hrs)
  · exact (hs.busWrite hr v).withSeqResults hq hrs
  · refine State.Inv.withSeqResults (.memWrite (hs.busRead .rxfifoData) ?_ _) ?_ (resultsGrow_busRead .rxfifoData hrs)
    · rw [State.busRead_cfg]
      exact State.bufferAddress_lt s _
    · rwa [State.memWrite_cfg, State.busRead_cfg]

theorem State.Inv.raise {s : State} (hs : s.Inv) (e : Ending) : (s.raise e).Inv :=
  hs.of_stepShape (stepShape_raise s e) (Latches.atRest.sequenced ⟨rfl, rfl⟩)

theorem State.Inv.callerStore {s : State} (hs : s.Inv) (a : Nat) (v : Byte) : (s.callerStore a v).Inv :=
  hs.memWrite (Nat.mod_lt _ (Nat.two_pow_pos _)) v

theorem State.Inv.exec {s t : State} {i : Instr} (hs : s.Inv) (h : exec i s = .next t) : t.Inv :=
  hs.of_stepShape (exec_shape h) ((exec_seq h).sequenced hs.limitPositive ⟨hs.sequencing, hs.polls⟩)

/-! ## The statements -/

/-- Settles O51: one rule per update of the state, and the legal states of the latches row by row. -/
theorem stepKeepsInvariant : Obligations.StepKeepsInvariant := by
  intro s t hs h
  obtain rfl | ⟨rest, a, v, rfl⟩ | ⟨rest, rfl⟩ | ⟨rest, i, hi⟩ := step_next h
  · exact hs.peripheralMoves
  · exact (hs.peripheralMoves.withCaller rest).callerStore a v
  · exact (hs.peripheralMoves.withCaller rest).raise _
  · exact (hs.peripheralMoves.withCaller rest).exec hi

/-- Settles O8: the step of a busy accessor is one step of its operation, which keeps the caller's list. -/
theorem operationsAreSerial : Obligations.OperationsAreSerial := by
  intro s t op hop h
  rw [step_running hop] at h
  obtain ⟨-, hcaller, -, -⟩ := exec_sameSetting h
  exact ⟨hcaller.trans (State.peripheralMoves_caller s), by simpa using (exec_seq h).curOp⟩

/-- Settles O47: a step that stores a byte delivers it, and the store changes only that byte. -/
theorem operationsWriteOnlyTheFrameBuffer : Obligations.OperationsWriteOnlyTheFrameBuffer := by
  intro s t i hwf h x hx
  obtain hmem | ⟨hop, hphase, hne, b, hmem⟩ := stepShape_mem (exec_shape h)
  · exact absurd (by rw [hmem]) hx
  · refine ⟨hop, hphase, hne, by_contra fun hother => hx ?_⟩
    rw [hmem, Memory.read_write_other _ _ _ _ hother hwf]

/-- Settles O49: neither the peripheral's moves nor the accessor's step touch the configuration or the environment. -/
theorem stepKeepsConfiguration : Obligations.StepKeepsConfiguration := by
  intro s t h
  obtain rfl | ⟨rest, a, v, rfl⟩ | ⟨rest, rfl⟩ | ⟨rest, i, hi⟩ := step_next h
  · simp
  · simp
  · simp
  · obtain ⟨hcfg, -, henv, -⟩ := exec_sameSetting hi
    simp [hcfg, henv]

/-- Settles O6: an idle accessor takes the word at the head of the caller's list, which the peripheral's moves keep. -/
theorem stepRunsDecodedOperation : Obligations.StepRunsDecodedOperation := by
  intro s w rest i hidle hcaller hdecode
  rw [step_idle hidle]
  unfold State.idleStep
  rw [State.peripheralMoves_caller, hcaller]
  simp only [State.takeCommand, hdecode]

/-- Settles O7: the law of the busy accessor's step, `step_running`. -/
theorem stepContinuesOperationInProgress : Obligations.StepContinuesOperationInProgress :=
  fun _ _ hop => step_running hop

/-- Settles O52: the reset state is at rest, its memory, traces and FIFOs are empty, and there is no poll limit. -/
theorem resetHasInvariant : Obligations.ResetHasInvariant where
  memCanonical := Memory.wf_reset
  memBelow := rfl
  limitPositive := by simp [State.reset, Config.asBuilt]
  sequencing := rfl
  polls := rfl
  traceAllowed := rfl
  resultsLegal := rfl
  fifos := Device.fifosBounded_iff.2 ⟨Nat.zero_le _, Nat.zero_le _⟩

/-- The configuration as built is legal: the base is aligned and leaves room for the block of the default layout. -/
theorem asBuilt_wf : Config.asBuilt.wf = true := by
  have hspan : Layout.default.span = 0x40 := by decide
  have hlayout : Layout.default.wf = true := by decide
  have hroom : 4 * (Config.openBase % (2 ^ 30 - 15)) + 0x40 ≤ 2 ^ 32 := by omega
  simpa [Config.wf, Config.asBuilt, hspan, hlayout] using hroom

/-- Settles O54: the reset values of R50 and R225 as they stand, and the legal configuration. -/
theorem resetStateIsIdle : Obligations.ResetStateIsIdle :=
  ⟨rfl, rfl, rfl, rfl, rfl, rfl, rfl, rfl, rfl, rfl, rfl, rfl, rfl, rfl, asBuilt_wf⟩

end Sys2Proof.Machine
end

section
/-! SUPPORT. The statements about the register block as memory (20_memory.md): where its registers lie in the address space
(R61, R64), the byte image of an address register (R66), and a whole read-modify-write of a storage register (R63). -/

namespace Sys2Proof

/-! ## The layout of the block -/

/-- The registers in the order in which `Layout.ranges` lists their words (10_state.md R31). -/
def layoutOrder : List Reg :=
  [.rxip, .txip, .rxport, .txport, .ctrl, .status, .rxStatus, .txStatus, .rxsize, .txsize, .rxfifoData, .txfifoData,
    .rxfifoSize, .txfifoSize]

theorem mem_layoutOrder (r : Reg) : r ∈ layoutOrder := by
  cases r <;> decide

/-- The bytes of a register in the block, as a first offset and a length. -/
def Layout.word (l : Layout) (r : Reg) : Nat × Nat := (l.offset r, 4)

/-- The bytes of the two reserved gaps. -/
def Layout.gaps (l : Layout) : List (Nat × Nat) := [(l.rsvd0, 4 * l.rsvd0Words), (l.rsvd1, 4 * l.rsvd1Words)]

theorem Layout.ranges_eq (l : Layout) : l.ranges = layoutOrder.map l.word ++ l.gaps := rfl

theorem Layout.word_mem_ranges (l : Layout) (r : Reg) : l.word r ∈ l.ranges :=
  l.ranges_eq ▸ List.mem_append_left _ (List.mem_map_of_mem (mem_layoutOrder r))

theorem rangesDisjoint_iff {x y : Nat × Nat} :
    rangesDisjoint x y = true ↔ x.1 + x.2 ≤ y.1 ∨ y.1 + y.2 ≤ x.1 := by
  simp [rangesDisjoint]

theorem rangesDisjoint_symm {x y : Nat × Nat} (h : rangesDisjoint x y = true) : rangesDisjoint y x = true :=
  rangesDisjoint_iff.2 (rangesDisjoint_iff.1 h).symm

theorem pairwiseDisjoint_iff {xs : List (Nat × Nat)} :
    pairwiseDisjoint xs = true ↔ xs.Pairwise (fun x y => rangesDisjoint x y = true) := by
  induction xs with
  | nil => simp [pairwiseDisjoint]
  | cons x xs ih => simp [pairwiseDisjoint, ih]

/-- A running maximum is at least its start and at least each end it has met. -/
theorem le_foldl_max_end (xs : List (Nat × Nat)) (m : Nat) :
    m ≤ xs.foldl (fun m x => max m (x.1 + x.2)) m ∧
      ∀ x ∈ xs, x.1 + x.2 ≤ xs.foldl (fun m x => max m (x.1 + x.2)) m := by
  induction xs generalizing m with
  | nil => simp
  | cons y ys ih =>
    obtain ⟨hstart, hends⟩ := ih (max m (y.1 + y.2))
    refine ⟨(le_max_left _ _).trans hstart, fun x hx => ?_⟩
    obtain rfl | hx := List.mem_cons.1 hx
    · exact (le_max_right _ _).trans hstart
    · exact hends x hx

/-- No range of the block passes its span. -/
theorem Layout.end_le_span {l : Layout} {x : Nat × Nat} (hx : x ∈ l.ranges) : x.1 + x.2 ≤ l.span :=
  (le_foldl_max_end l.ranges 0).2 x hx

/-- What R31 asks of the ranges of the block. -/
theorem Layout.ranges_of_wf {l : Layout} (h : l.wf = true) :
    (∀ x ∈ l.ranges, x.1 % 4 = 0) ∧ l.ranges.Pairwise (fun x y => rangesDisjoint x y = true) := by
  simp only [Layout.wf, Bool.and_eq_true, List.all_eq_true, beq_iff_eq] at h
  obtain ⟨⟨⟨haligned, hpair⟩, -⟩, -⟩ := h
  exact ⟨haligned, pairwiseDisjoint_iff.1 hpair⟩

/-- The register words share no byte with one another, and none with a gap. -/
theorem Layout.words_disjoint_of_wf {l : Layout} (h : l.wf = true) :
    (∀ r q, r ≠ q → rangesDisjoint (l.word r) (l.word q) = true) ∧
      ∀ r, ∀ g ∈ l.gaps, rangesDisjoint (l.word r) g = true := by
  obtain ⟨-, hpair⟩ := Layout.ranges_of_wf h
  rw [Layout.ranges_eq, List.pairwise_append, List.pairwise_map] at hpair
  obtain ⟨hwords, -, hgaps⟩ := hpair
  have : Std.Symm (fun r q => rangesDisjoint (l.word r) (l.word q) = true) := ⟨fun _ _ => rangesDisjoint_symm⟩
  exact ⟨fun r q => hwords.forall (mem_layoutOrder r) (mem_layoutOrder q),
    fun r => hgaps _ (List.mem_map_of_mem (mem_layoutOrder r))⟩

/-- What R9 asks of the base and the layout. -/
theorem Config.block_of_wf {c : Config} (h : c.wf = true) :
    c.base % 4 = 0 ∧ c.base + c.layout.span ≤ 2 ^ c.addrWidth ∧ c.layout.wf = true := by
  simp only [Config.wf, Bool.and_eq_true, beq_iff_eq, decide_eq_true_eq] at h
  obtain ⟨⟨⟨⟨⟨hbase, htop⟩, hlayout⟩, -⟩, -⟩, -⟩ := h
  exact ⟨hbase, htop, hlayout⟩

/-- Disjoint ranges of the block stay disjoint at their bus addresses. -/
theorem disjoint_at_base {x y : Nat × Nat} (base : Nat) (h : rangesDisjoint x y = true) :
    base + x.1 + x.2 ≤ base + y.1 ∨ base + y.1 + y.2 ≤ base + x.1 := by
  have := rangesDisjoint_iff.1 h
  omega

/-- Settles O55: the constraints of R31 on the ranges of the layout, moved to the base. -/
theorem busAddressesAreAlignedAndDisjoint : Obligations.BusAddressesAreAlignedAndDisjoint := by
  intro c r q h
  obtain ⟨hbase, htop, hlayout⟩ := Config.block_of_wf h
  obtain ⟨haligned, -⟩ := Layout.ranges_of_wf hlayout
  obtain ⟨hwords, hgaps⟩ := Layout.words_disjoint_of_wf hlayout
  have hoffset : c.layout.offset r % 4 = 0 := haligned _ (c.layout.word_mem_ranges r)
  have hend : c.layout.offset r + 4 ≤ c.layout.span := Layout.end_le_span (c.layout.word_mem_ranges r)
  unfold Config.busAddress
  refine ⟨by omega, by omega, by omega, by omega, fun hne => ?_, ?_, ?_⟩
  · exact disjoint_at_base c.base (hwords r q hne)
  · exact disjoint_at_base c.base (hgaps r _ (.head _))
  · exact disjoint_at_base c.base (hgaps r _ (.tail _ (.head _)))

end Sys2Proof

namespace Sys2Proof.Machine

/-! ## The text of an address -/

/-- The scan takes in a string of digits one by one, and only the octet being accumulated changes (R151). -/
theorem scanIpv4_digits (width : Nat) {ds : List Byte} (hds : ds.all isDigit = true) (rest : List Byte) (acc : Word)
    (oct count : Nat) :
    scanIpv4 width (ds ++ rest) acc oct count = scanIpv4 width rest acc (ds.foldl (addDigit width) oct) count := by
  induction ds generalizing oct with
  | nil => rfl
  | cons d ds ih =>
    simp only [List.all_cons, Bool.and_eq_true] at hds
    obtain ⟨hd, hds⟩ := hds
    have hdot : d ≠ charDot := by
      rintro rfl
      exact absurd hd (by decide)
    simp only [List.cons_append, scanIpv4, if_neg hdot, hd, if_true, List.foldl_cons]
    exact ih hds _

/-- The accumulator holds the number of the digits modulo two to its width (R155). -/
theorem foldl_addDigit (width : Nat) (ds : List Byte) (n : Nat) :
    ds.foldl (addDigit width) (n % 2 ^ width) = ds.foldl (fun n c => n * 10 + digitValue c) n % 2 ^ width := by
  induction ds generalizing n with
  | nil => rfl
  | cons d ds ih =>
    have hd : addDigit width (n % 2 ^ width) d = (n * 10 + digitValue d) % 2 ^ width := by
      simp [addDigit, Nat.add_mod, Nat.mul_mod]
    rw [List.foldl_cons, hd, ih, List.foldl_cons]

/-- The octet that a string of digits leaves in an accumulator of 8 bits. -/
theorem foldl_addDigit_zero (ds : List Byte) : ds.foldl (addDigit 8) 0 = (BitVec.ofNat 8 (decimal ds)).toNat := by
  rw [BitVec.toNat_ofNat]
  exact foldl_addDigit 8 ds 0

theorem closeOctet_toNat (acc : Word) (o : Byte) :
    (closeOctet acc o.toNat).toNat = acc.toNat * 2 ^ 8 % 2 ^ 32 + o.toNat := by
  have ho := o.isLt
  have hoctet : o.toNat % 2 ^ 32 = o.toNat := by omega
  have hshift : acc.toNat * 2 ^ 8 % 2 ^ 32 = (acc.toNat % 2 ^ 24) <<< 8 := by
    rw [Nat.shiftLeft_eq]
    omega
  rw [closeOctet, BitVec.toNat_or, BitVec.toNat_shiftLeft, BitVec.toNat_ofNat, Nat.shiftLeft_eq, hshift, hoctet,
    Nat.shiftLeft_add_eq_or_of_lt ho]

/-- Four octets closed one after the other stand in the word in text order, the first on top (R152). -/
theorem closeOctet_four (o1 o2 o3 o4 : Byte) :
    closeOctet (closeOctet (closeOctet (closeOctet 0 o1.toNat) o2.toNat) o3.toNat) o4.toNat =
      ((o1 ++ o2) ++ o3) ++ o4 := by
  apply BitVec.eq_of_toNat_eq
  simp only [closeOctet_toNat, append_toNat]
  have h1 := o1.isLt; have h2 := o2.isLt; have h3 := o3.isLt; have h4 := o4.isLt
  rw [show (0 : Word).toNat = 0 from rfl]
  omega

/-- Digits up to a dot close one octet. -/
theorem scanIpv4_octet {ds : List Byte} (hds : ds.all isDigit = true) (rest : List Byte) (acc : Word) (count : Nat) :
    scanIpv4 8 (ds ++ charDot :: rest) acc 0 count =
      scanIpv4 8 rest (closeOctet acc (BitVec.ofNat 8 (decimal ds)).toNat) 0 (count + 1) := by
  rw [scanIpv4_digits 8 hds, foldl_addDigit_zero]
  simp [scanIpv4]

/-- Digits up to the end of the text close the fourth octet. -/
theorem scanIpv4_last {ds : List Byte} (hds : ds.all isDigit = true) (acc : Word) :
    scanIpv4 8 ds acc 0 3 = (.parsed, closeOctet acc (BitVec.ofNat 8 (decimal ds)).toNat) := by
  have h := scanIpv4_digits 8 hds [] acc 0 3
  rw [List.append_nil, foldl_addDigit_zero] at h
  rw [h]
  rfl

/-- Four strings of digits parse to their decimal values, packed in text order (R152). -/
theorem parseIpv4_digits {d1 d2 d3 d4 : List Byte} (h1 : d1.all isDigit = true) (h2 : d2.all isDigit = true)
    (h3 : d3.all isDigit = true) (h4 : d4.all isDigit = true) :
    parseIpv4 8 (d1 ++ charDot :: (d2 ++ charDot :: (d3 ++ charDot :: d4))) =
      (.parsed, ((BitVec.ofNat 8 (decimal d1) ++ BitVec.ofNat 8 (decimal d2)) ++ BitVec.ofNat 8 (decimal d3)) ++
        BitVec.ofNat 8 (decimal d4)) := by
  unfold parseIpv4
  rw [scanIpv4_octet h1, scanIpv4_octet h2, scanIpv4_octet h3, scanIpv4_last h4, closeOctet_four]

/-! ## The numeral of a byte -/

theorem digitChar_toNat {d : Nat} (h : d < 10) : (digitChar d).toNat = 0x30 + d := by
  rw [digitChar, BitVec.toNat_ofNat]
  omega

theorem isDigit_digitChar {d : Nat} (h : d < 10) : isDigit (digitChar d) = true := by
  simp only [isDigit, digitChar_toNat h, Bool.and_eq_true, decide_eq_true_eq]
  omega

theorem digitValue_digitChar {d : Nat} (h : d < 10) : digitValue (digitChar d) = d := by
  rw [digitValue, digitChar_toNat h]
  omega

theorem isDigit_numeral (b : Byte) : (numeral b).all isDigit = true := by
  have hb := b.isLt
  unfold numeral
  repeat' split
  all_goals simp (disch := omega) [isDigit_digitChar]

theorem decimal_numeral (b : Byte) : decimal (numeral b) = b.toNat := by
  have hb := b.isLt
  unfold numeral decimal
  repeat' split
  all_goals
    simp (disch := omega) only [List.foldl_cons, List.foldl_nil, digitValue_digitChar]
    omega

/-- The dotted octets parse to their values, packed in text order. -/
theorem parseIpv4_numerals (o1 o2 o3 o4 : Byte) :
    parseIpv4 8 (numeral o1 ++ charDot :: (numeral o2 ++ charDot :: (numeral o3 ++ charDot :: numeral o4))) =
      (.parsed, ((o1 ++ o2) ++ o3) ++ o4) := by
  rw [parseIpv4_digits (isDigit_numeral o1) (isDigit_numeral o2) (isDigit_numeral o3) (isDigit_numeral o4)]
  simp only [decimal_numeral, BitVec.ofNat_toNat, BitVec.setWidth_eq]

/-! ## The byte image of a register -/

section
variable (b3 b2 b1 b0 : Byte)

/-- The little-endian image of a word holds its lowest byte first (R66). -/
theorem imageByte_append :
    imageByte (((b3 ++ b2) ++ b1) ++ b0) 0 = b0 ∧ imageByte (((b3 ++ b2) ++ b1) ++ b0) 1 = b1 ∧
      imageByte (((b3 ++ b2) ++ b1) ++ b0) 2 = b2 ∧ imageByte (((b3 ++ b2) ++ b1) ++ b0) 3 = b3 := by
  have h0 := b0.isLt; have h1 := b1.isLt; have h2 := b2.isLt; have h3 := b3.isLt
  refine ⟨?_, ?_, ?_, ?_⟩ <;> apply BitVec.eq_of_toNat_eq <;>
    simp only [imageByte, extract_toNat, append_toNat] <;> omega

/-- `HTON32` reverses the bytes of a word (R158). -/
theorem hton32_append : hton32 (((b3 ++ b2) ++ b1) ++ b0) = ((b0 ++ b1) ++ b2) ++ b3 := by
  obtain ⟨h0, h1, h2, h3⟩ := imageByte_append b3 b2 b1 b0
  unfold imageByte at h0 h1 h2 h3
  unfold hton32
  rw [h0, h1, h2, h3]

end

/-- Settles O56: the parser packs the octets with the first on top, and the byte swap puts it lowest. -/
theorem addressRegisterImageIsInTextOrder : Obligations.AddressRegisterImageIsInTextOrder := by
  intro o1 o2 o3 o4 text
  have hvalue : encodeIp 8 text = ((o4 ++ o3) ++ o2) ++ o1 := by
    rw [encodeIp, parseIpv4_numerals, hton32_append]
  rw [hvalue]
  exact imageByte_append o4 o3 o2 o1

/-! ## A read-modify-write of a storage register -/

/-- A write of a storage register replaces its value and no other; a write of any other register stores nothing. -/
theorem Storage.read_write (g : Storage) (r q : Reg) (v : Word) :
    (g.write r v).read q = if q = r then (g.read r).map (fun _ => v) else g.read q := by
  cases r <;> cases q <;> rfl

/-- A register that stores a value is no read-only register (10_state.md R32). -/
theorem Storage.writable_of_read {g : Storage} {r : Reg} {v : Word} (h : g.read r = some v) : writable r = true := by
  cases r <;> simp [Storage.read] at h <;> rfl

/-- A storage register answers the stored value in every environment (43_peripheral_environment.md R219). -/
theorem State.readValue_of_stored {s : State} {r : Reg} {old : Word} (h : s.regs.read r = some old) :
    s.readValue r = old := by
  unfold State.readValue
  rw [h]

theorem decode_encode_writeBits (reg : BitVec 8) (c v : Word) :
    decode (encode (.writeBits reg c v)) = .op (.writeBits reg c v) := by
  have hrow : rowOfCode 0x15 = some ⟨.writeBits, 0x15, 0x00, 0x00000000, 0x00000000⟩ := by decide
  simp only [decode, encode, opField_commandWord, hrow]
  simp [Instr.ofFields]

/-- The state in which the accessor runs a command it has just taken: the peripheral has moved, and the caller's other
actions are left (notes/assumptions/1.md, 9.md). -/
def State.accepting (s : State) (rest : List CallerAction) : State := { s.peripheralMoves with caller := rest }

section
variable (s : State) (rest : List CallerAction)

@[simp] theorem State.accepting_caller : (s.accepting rest).caller = rest := rfl

@[simp] theorem State.accepting_seq : (s.accepting rest).seq = s.seq := State.peripheralMoves_seq s

@[simp] theorem State.accepting_regs : (s.accepting rest).regs = s.regs := State.peripheralMoves_regs s

@[simp] theorem State.accepting_mem : (s.accepting rest).mem = s.mem := State.peripheralMoves_mem s

@[simp] theorem State.accepting_busTrace : (s.accepting rest).busTrace = s.busTrace := State.peripheralMoves_busTrace s

@[simp] theorem State.accepting_results : (s.accepting rest).results = s.results := State.peripheralMoves_results s

end

/-- The state between the two steps of a `WRITE_BITS` (20_memory.md R63): the read has been issued. -/
def State.writeBitsRead (s : State) (rest : List CallerAction) (reg : BitVec 8) (r : Reg) (c v : Word) : State :=
  (((s.accepting rest).startReg .writeBits reg c v).busRead r).markRead

theorem step_writeBits_reads {s : State} {reg : BitVec 8} {r : Reg} {c v : Word} {rest : List CallerAction}
    (hidle : s.idle) (hr : writeTarget reg = .ok r)
    (hcaller : s.caller = .issue (encode (.writeBits reg c v)) :: rest) :
    step s = .next (s.writeBitsRead rest reg r c v) := by
  have haccepting : (s.accepting rest).idle := by simpa [State.idle] using hidle
  have hstep : step s = exec (.writeBits reg c v) (s.accepting rest) :=
    stepRunsDecodedOperation s _ rest _ hidle hcaller (decode_encode_writeBits reg c v)
  rw [hstep, exec_writeBits, State.readModifyWrite_first haccepting hr]
  rfl

theorem step_writeBits_writes {s : State} {r : Reg} (hop : s.seq.curOp = some .writeBits)
    (hdone : s.seq.readDone = true) (hr : writeTarget s.seq.opndReg = .ok r) :
    step s = .next ((s.peripheralMoves.busWrite r (writeMask s.seq.tmp s.seq.opndA s.seq.opndB)).ret 0) := by
  rw [step_running hop, Instr.ofFields, exec_writeBits,
    State.readModifyWrite_second (by simpa using hop) (by simpa using hdone) hr, State.peripheralMoves_seq]

/-- A whole `WRITE_BITS` of a storage register: the word written is computed from the stored value. -/
theorem run_writeBits {s : State} {reg : BitVec 8} {r : Reg} {c v old : Word} {rest : List CallerAction}
    (hidle : s.idle) (hr : writeTarget reg = .ok r) (hstored : s.regs.read r = some old)
    (hcaller : s.caller = .issue (encode (.writeBits reg c v)) :: rest) :
    run 2 s = .next (((s.writeBitsRead rest reg r c v).peripheralMoves.busWrite r (writeMask old c v)).ret 0) := by
  have hread : (s.accepting rest).readValue r = old := State.readValue_of_stored (by simpa using hstored)
  have hwrites := step_writeBits_writes (s := s.writeBitsRead rest reg r c v) (r := r) rfl rfl hr
  rw [run_succ 1 (step_writeBits_reads hidle hr hcaller), run_succ 0 hwrites, run_zero, ← hread]
  rfl

theorem State.writeBitsRead_busTrace {s : State} {r : Reg} {old : Word} (rest : List CallerAction) (reg : BitVec 8)
    (c v : Word) (hstored : s.regs.read r = some old) :
    (s.writeBitsRead rest reg r c v).busTrace = s.busTrace ++ [.read r old] := by
  have hread : ((s.accepting rest).startReg .writeBits reg c v).readValue r = old :=
    State.readValue_of_stored (by simpa using hstored)
  simp [State.writeBitsRead, hread]

/-- Settles O16: the read answers the stored value, and the write replaces it. -/
theorem writeBitsReplacesStoredBits : Obligations.WriteBitsReplacesStoredBits := by
  intro s reg r c v old rest hidle hreg hstored hcaller
  have hr : writeTarget reg = .ok r := writeTarget_named hreg (Storage.writable_of_read hstored)
  have htrace := State.writeBitsRead_busTrace rest reg c v hstored
  have hregs : (s.writeBitsRead rest reg r c v).regs = s.regs := by simp [State.writeBitsRead]
  refine ⟨_, run_writeBits hidle hr hstored hcaller, rfl, ?_, ?_, ?_, fun q hq => ?_, ?_, fun a => ?_⟩
  · simp [State.writeBitsRead]
  · simp [htrace, writeMask]
  · simp [hregs, Storage.read_write, hstored, writeMask]
  · simp [hregs, Storage.read_write, hq]
  · simp [State.writeBitsRead, resultWord, Ending.code]
  · simp [State.writeBitsRead]

end Sys2Proof.Machine
end

section
/-! SUPPORT. The statements about the operation word (30_encoding.md): the decoder answers the operation of the row that the
word selects (R94, R95), a word and its operation determine each other (R91, R92), and the codes of the result word
(R96, 60_exceptions.md R241). -/

namespace Sys2Proof

/-! ## The rows of the operation map -/

/-- The `op` bytes of the map differ, so a row is found again from its byte. -/
theorem rowOfCode_code : ∀ r ∈ opMap, rowOfCode r.code = some r := by decide

theorem rowOfCode_eq_some_iff {code : Byte} {r : MapRow} : rowOfCode code = some r ↔ r ∈ opMap ∧ r.code = code := by
  constructor
  · intro h
    exact ⟨List.mem_of_find?_eq_some h, by simpa using List.find?_some h⟩
  · rintro ⟨hr, rfl⟩
    exact rowOfCode_code r hr

/-- The decoder answers an operation exactly when the word selects a row, and then the row's, on the word's fields. -/
theorem decode_eq_op_iff {w : Command} {i : Instr} :
    decode w = .op i ↔
      ∃ r ∈ opMap, r.selects w = true ∧ i = Instr.ofFields r.op w.regField w.aField w.bField := by
  unfold decode
  constructor
  · intro h
    split at h
    · cases h
    · rename_i r hrow
      obtain ⟨hr, hcode⟩ := rowOfCode_eq_some_iff.1 hrow
      split at h <;> cases h
      rename_i hzero
      exact ⟨r, hr, r.selects_iff w |>.2 ⟨hcode.symm, hzero⟩, rfl⟩
  · rintro ⟨r, hr, hsel, rfl⟩
    obtain ⟨hcode, hzero⟩ := (r.selects_iff w).1 hsel
    simp only [rowOfCode_eq_some_iff.2 ⟨hr, hcode.symm⟩, if_pos hzero]

theorem decode_of_selects {w : Command} {r : MapRow} (hr : r ∈ opMap) (hsel : r.selects w = true) :
    decode w = .op (Instr.ofFields r.op w.regField w.aField w.bField) :=
  decode_eq_op_iff.2 ⟨r, hr, hsel, rfl⟩

/-- A word selects one row at most: the row of its `op` byte. -/
theorem row_unique {w : Command} {r q : MapRow} (hr : r ∈ opMap) (hq : q ∈ opMap) (hrw : r.selects w = true)
    (hqw : q.selects w = true) : r = q := by
  have hcode : r.code = q.code := ((r.selects_iff w).1 hrw).1.symm.trans ((q.selects_iff w).1 hqw).1
  exact Option.some.inj ((rowOfCode_code r hr).symm.trans (hcode ▸ rowOfCode_code q hq))

/-! ## From the operation to its word and back -/

/-- Every operation has a row of the map, with the mask and the match that the opcode table writes for it. -/
theorem exists_row (op : Op) :
    ∃ r ∈ opMap, r.op = op ∧ (r.maskWord, r.matchWord) = Laws.tableRow op := by
  cases op <;> decide

/-- The word of an operation lies in the operation's row of the opcode table. -/
theorem encode_in_tableRow (i : Instr) : Laws.TableRow.Statement i := by
  cases i with
  | regRead reg => exact Laws.TableRow.regRead reg
  | regWrite reg v => exact Laws.TableRow.regWrite reg v
  | setBits reg m => exact Laws.TableRow.setBits reg m
  | clearBits reg m => exact Laws.TableRow.clearBits reg m
  | readBits reg m => exact Laws.TableRow.readBits reg m
  | writeBits reg c m => exact Laws.TableRow.writeBits reg c m
  | parseIpv4 text len => exact Laws.TableRow.parseIpv4 text len
  | hton16 v => exact Laws.TableRow.hton16 v
  | hton32 v => exact Laws.TableRow.hton32 v
  | init => exact Laws.TableRow.init
  | recvFrame a b => exact Laws.TableRow.recvFrame a b
  | sendFrame a b => exact Laws.TableRow.sendFrame a b

theorem exists_row_selects_encode (i : Instr) : ∃ r ∈ opMap, r.op = i.op ∧ r.selects (encode i) = true := by
  obtain ⟨r, hr, hop, hwords⟩ := exists_row i.op
  have hrow : encode i &&& (Laws.tableRow i.op).1 = (Laws.tableRow i.op).2 := encode_in_tableRow i
  rw [← hwords] at hrow
  exact ⟨r, hr, hop, beq_iff_eq.2 hrow⟩

/-- The fields of an operation's word are its operands, as they stand (R92). -/
theorem ofFields_encode (i : Instr) :
    Instr.ofFields i.op (encode i).regField (encode i).aField (encode i).bField = i := by
  cases i <;> simp [encode, Instr.op, Instr.ofFields]

theorem eq_zero_of_and_allOnes {n : Nat} {x : BitVec n} (h : x &&& BitVec.allOnes n = 0) : x = 0 :=
  BitVec.and_allOnes.symm.trans h

/-- The fields that a row leaves free are the operands; the others are zero in the word, as the row's mask asks. -/
theorem encode_ofFields {r : MapRow} {reg : Byte} {a b : Word} (hr : r ∈ opMap) (hreg : reg &&& r.regMask = 0)
    (ha : a &&& r.aMask = 0) (hb : b &&& r.bMask = 0) :
    encode (Instr.ofFields r.op reg a b) = commandWord r.code reg a b := by
  simp only [opMap, List.cons_append, List.nil_append, List.mem_cons, List.not_mem_nil, or_false] at hr
  obtain rfl | rfl | rfl | rfl | rfl | rfl | rfl | rfl | rfl | rfl | rfl | rfl := hr
  · rw [eq_zero_of_and_allOnes ha, eq_zero_of_and_allOnes hb]; rfl
  iterate 4
    rw [eq_zero_of_and_allOnes hb]; rfl
  · rfl
  · rw [eq_zero_of_and_allOnes hreg]; rfl
  · rw [eq_zero_of_and_allOnes hreg, eq_zero_of_and_allOnes hb]
    exact congrArg (commandWord 0x21 0 · 0) (setWidth_half_of_and a ha)
  · rw [eq_zero_of_and_allOnes hreg, eq_zero_of_and_allOnes hb]; rfl
  · rw [eq_zero_of_and_allOnes hreg, eq_zero_of_and_allOnes ha, eq_zero_of_and_allOnes hb]; rfl
  · rw [eq_zero_of_and_allOnes hreg]; rfl
  · rw [eq_zero_of_and_allOnes hreg]; rfl

/-! ## The statements -/

/-- Settles O1: the word selects its operation's row, and its fields are the operands. -/
theorem decodeOfEncode : Obligations.DecodeOfEncode := by
  intro i
  obtain ⟨r, hr, hop, hsel⟩ := exists_row_selects_encode i
  rw [decode_of_selects hr hsel, hop, ofFields_encode]

/-- Settles O2: the fields a row does not leave free are zero in the word, as they are in the operation's own. -/
theorem encodeOfDecode : Obligations.EncodeOfDecode := by
  intro w i h
  obtain ⟨r, hr, hsel, rfl⟩ := decode_eq_op_iff.1 h
  obtain ⟨hcode, hreg, ha, hb⟩ := (r.selects_iff w).1 hsel
  rw [encode_ofFields hr hreg ha hb, ← hcode, commandWord_fields]

/-- Settles O3: the decoder answers the operation of the selected row, and the `op` byte selects one row at most. -/
theorem decodeFollowsOperationMap : Obligations.DecodeFollowsOperationMap := by
  refine ⟨fun w i h => ?_, fun w r hr hsel => ?_, fun w why h r hr => ?_, fun w r q => row_unique⟩
  · obtain ⟨r, hr, hsel, rfl⟩ := decode_eq_op_iff.1 h
    exact ⟨r, hr, hsel, (Machine.Instr.ofFields_op ..).symm⟩
  · exact ⟨_, decode_of_selects hr hsel, Machine.Instr.ofFields_op ..⟩
  · refine Bool.eq_false_iff.2 fun hsel => ?_
    rw [decode_of_selects hr hsel] at h
    cases h

end Sys2Proof

namespace Sys2Proof.Machine

/-- Settles O5: the value and the code read back from the word, and the code of each ending is the one R241 lists. -/
theorem resultWordCarriesCodeAndValue : Obligations.ResultWordCarriesCodeAndValue := by
  intro e v
  refine ⟨resultWord_value e v, ?_⟩
  rw [resultWord_code]
  cases e <;> rfl

end Sys2Proof.Machine
end

section
/-! SUPPORT. The statement about the results (30_encoding.md R96, 60_exceptions.md R240): a step of an operation either
leaves it in progress and returns nothing, or ends it with one result word. -/

namespace Sys2Proof.Machine

/-- How one step of operation `op` leaves the state `s`: the operation goes on and nothing is returned, or it ends with one
result word, by `return` or by `raise`, and nothing was returned before. -/
inductive State.StepEnd (s : State) (op : Op) : State → Prop
  | goesOn {t : State} (hop : t.seq.curOp = some op) (hres : t.results = s.results) : StepEnd s op t
  | returns {u : State} (v : Word) (hres : u.results = s.results) : StepEnd s op (u.ret v)
  | raises {u : State} (e : Ending) (hres : u.results = s.results) : StepEnd s op (u.raise e)

/-- The accessor is idle after the step, and the step returned one legal result word. -/
def State.EndedBy (s t : State) : Prop :=
  t.idle ∧ t.seq.phase = .idle ∧ ∃ w : ResultWord, resultLegal w = true ∧ t.results = s.results ++ [w]

theorem State.endedBy_finish {s u : State} {e : Ending} {v : Word} (hres : u.results = s.results)
    (hev : e = .ok ∨ v = 0) : s.EndedBy (u.finish e v) :=
  ⟨rfl, rfl, _, resultLegal_word e v hev, by rw [State.finish_results, hres]⟩

theorem State.StepEnd.goesOn_or_endedBy {s t : State} {op : Op} (h : s.StepEnd op t) :
    (t.seq.curOp = some op ∧ t.results = s.results) ∨ s.EndedBy t := by
  cases h with
  | goesOn hop hres => exact .inl ⟨hop, hres⟩
  | returns v hres => exact .inr (State.endedBy_finish hres (.inl rfl))
  | raises e hres => exact .inr (State.endedBy_finish hres (.inr rfl))

/-! ## The operations of one or two steps -/

theorem readOperation_stepEnd {s t : State} {op : Op} {reg : BitVec 8} {a : Word} {f : Word → Word}
    (h : s.readOperation op reg a f = .next t) : s.StepEnd op t := by
  obtain ⟨-, h⟩ := State.whenIdle_next h
  split at h <;> cases h
  · exact .raises _ rfl
  · exact .returns _ (State.busRead_results _ _)

theorem readModifyWrite_stepEnd {s t : State} {op : Op} {reg : BitVec 8} {a b : Word} {f : Word → Word}
    (h : s.readModifyWrite op reg a b f = .next t) : s.StepEnd op t := by
  unfold State.readModifyWrite at h
  split at h
  · obtain ⟨-, h⟩ := State.whenIdle_next h
    cases h
    exact .raises _ rfl
  · obtain ⟨-, h⟩ | ⟨-, h⟩ := State.firstOrNext_next h
    · cases h
      exact .goesOn rfl (State.busRead_results _ _)
    · split at h <;> cases h
      exact .returns 0 rfl

theorem regWrite_stepEnd {s t : State} {reg : BitVec 8} {v : Word} (h : execRegWrite reg v s = .next t) :
    s.StepEnd .regWrite t := by
  obtain ⟨-, h⟩ := State.whenIdle_next h
  split at h <;> cases h
  · exact .raises _ rfl
  · exact .returns 0 rfl

theorem encodingResult_stepEnd {s t : State} {op : Op} {a b v : Word} (h : s.encodingResult op a b v = .next t) :
    s.StepEnd op t := by
  cases h
  exact .returns v rfl

theorem parseIpv4_stepEnd {s t : State} {a b : Word} (h : execParseIpv4 a b s = .next t) : s.StepEnd .parseIpv4 t := by
  obtain ⟨-, h⟩ := State.whenIdle_next h
  split at h
  · cases h
    exact .raises _ rfl
  · exact encodingResult_stepEnd h

/-! ## The state machines -/

theorem initStep_stepEnd {s t : State} (hop : s.seq.curOp = some .init) (h : s.initStep = .next t) :
    s.StepEnd .init t := by
  unfold State.initStep at h
  split at h <;> cases h
  iterate 5 exact .goesOn hop rfl
  exact .returns 0 rfl

theorem init_stepEnd {s t : State} (h : execInit s = .next t) : s.StepEnd .init t := by
  obtain ⟨-, h⟩ | ⟨hop, h⟩ := State.firstOrNext_next h
  · cases h
    exact .goesOn rfl rfl
  · exact initStep_stepEnd hop h

theorem acceptTransfer_stepEnd {s t : State} {op : Op} {a b : Word} (h : s.acceptTransfer op a b = .next t) :
    s.StepEnd op t := by
  unfold State.acceptTransfer at h
  split at h <;> cases h
  · exact .raises _ rfl
  · exact .goesOn rfl rfl

section
variable {s t : State} {op : Op} {f : State → State}

/-- A change of the sequencing state inside an operation: the operation stays in progress and nothing is returned. -/
def keepsRunning (f : State → State) : Prop :=
  ∀ u : State, (f u).seq.curOp = u.seq.curOp ∧ (f u).results = u.results

theorem configureStep_stepEnd {r : Reg} {w : Word} (hop : s.seq.curOp = some op)
    (h : s.configureStep r w f = .next t) (hf : keepsRunning f) : s.StepEnd op t := by
  unfold State.configureStep at h
  split at h <;> cases h
  · exact .goesOn hop rfl
  · obtain ⟨hcur, hres⟩ := hf ((s.busWrite .ctrl w).setSubStep 2)
    exact .goesOn (hcur.trans hop) hres

theorem pollStep_stepEnd {r : Reg} {p : Word → Bool} {e : Ending} (hop : s.seq.curOp = some op)
    (h : s.pollStep r p e f = .next t) (hf : keepsRunning f) : s.StepEnd op t := by
  unfold State.pollStep at h
  split at h
  · cases h
    exact .raises e rfl
  · dsimp only at h
    have hread : ((s.busRead r).setPolls (s.seq.polls + 1)).results = s.results := State.busRead_results s r
    split at h <;> cases h
    · obtain ⟨hcur, hres⟩ := hf ((s.busRead r).setPolls (s.seq.polls + 1))
      exact .goesOn (hcur.trans hop) (hres.trans hread)
    · exact .goesOn hop hread

theorem drainStep_stepEnd (hop : s.seq.curOp = some op) (h : s.drainStep = .next t) : s.StepEnd op t := by
  have hread : (s.busRead .rxfifoData).results = s.results := State.busRead_results s .rxfifoData
  unfold State.drainStep at h
  split at h
  · cases h
    exact .goesOn hop rfl
  · dsimp only at h
    split at h
    · split at h <;> cases h
      · exact .raises _ hread
      · exact .goesOn hop hread
    · cases h
      exact .goesOn hop hread

theorem fillStep_stepEnd (hop : s.seq.curOp = some op) (h : s.fillStep = .next t) : s.StepEnd op t := by
  unfold State.fillStep at h
  split at h <;> cases h
  · exact .goesOn hop rfl
  · exact .goesOn hop rfl

theorem recvStep_stepEnd (hop : s.seq.curOp = some op) (h : s.recvStep = .next t) : s.StepEnd op t := by
  unfold State.recvStep at h
  split at h
  · exact configureStep_stepEnd hop h fun _ => ⟨rfl, rfl⟩
  · exact pollStep_stepEnd hop h fun _ => ⟨rfl, rfl⟩
  · exact drainStep_stepEnd hop h
  · cases h
    exact .returns 0 rfl
  all_goals cases h

theorem sendStep_stepEnd (hop : s.seq.curOp = some op) (h : s.sendStep = .next t) : s.StepEnd op t := by
  unfold State.sendStep at h
  split at h
  · exact configureStep_stepEnd hop h fun _ => ⟨rfl, rfl⟩
  · exact fillStep_stepEnd hop h
  · exact pollStep_stepEnd hop h fun _ => ⟨rfl, rfl⟩
  · cases h
    exact .returns 0 rfl
  all_goals cases h

end

/-- Whatever operation runs, its step leaves it in progress with nothing returned, or ends it with one result word. -/
theorem exec_stepEnd {i : Instr} {s t : State} (h : exec i s = .next t) : s.StepEnd i.op t := by
  cases i with
  | regRead reg => exact readOperation_stepEnd ((exec_regRead s reg).symm.trans h)
  | regWrite reg v => exact regWrite_stepEnd h
  | setBits reg m => exact readModifyWrite_stepEnd ((exec_setBits s reg m).symm.trans h)
  | clearBits reg m => exact readModifyWrite_stepEnd ((exec_clearBits s reg m).symm.trans h)
  | readBits reg m => exact readOperation_stepEnd ((exec_readBits s reg m).symm.trans h)
  | writeBits reg c m => exact readModifyWrite_stepEnd ((exec_writeBits s reg c m).symm.trans h)
  | parseIpv4 a b => exact parseIpv4_stepEnd h
  | hton16 v => exact encodingResult_stepEnd (State.whenIdle_next h).2
  | hton32 v => exact encodingResult_stepEnd (State.whenIdle_next h).2
  | init => exact init_stepEnd h
  | recvFrame a b =>
    obtain ⟨-, h⟩ | ⟨hop, h⟩ := State.firstOrNext_next h
    · exact acceptTransfer_stepEnd h
    · exact recvStep_stepEnd hop h
  | sendFrame a b =>
    obtain ⟨-, h⟩ | ⟨hop, h⟩ := State.firstOrNext_next h
    · exact acceptTransfer_stepEnd h
    · exact sendStep_stepEnd hop h

/-- One step of an operation, from a state with the results so far. -/
theorem exec_goesOn_or_endedBy {i : Instr} {s u t : State} (hres : u.results = s.results) (h : exec i u = .next t) :
    (t.seq.curOp = some i.op ∧ t.results = s.results) ∨ s.EndedBy t := by
  have := (exec_stepEnd h).goesOn_or_endedBy
  rwa [State.EndedBy, hres] at this

/-! ## The idle accessor -/

/-- An idle accessor takes the command word at the head of the caller's list. -/
theorem step_issue {s : State} {w : Command} {rest : List CallerAction} (hidle : s.idle)
    (hcaller : s.caller = .issue w :: rest) : step s = (s.accepting rest).takeCommand w := by
  rw [step_idle hidle]
  unfold State.idleStep
  rw [State.peripheralMoves_caller, hcaller]
  rfl

/-- Without a command word nothing is started and nothing is returned. -/
theorem step_without_word {s t : State} (hidle : s.idle) (hcaller : ∀ w rest, s.caller ≠ .issue w :: rest)
    (h : step s = .next t) : t.idle ∧ t.results = s.results := by
  have hmoves : s.peripheralMoves.idle := by simpa [State.idle] using hidle
  rw [step_idle hidle] at h
  unfold State.idleStep at h
  split at h
  · cases h
    exact ⟨hmoves, State.peripheralMoves_results s⟩
  · cases h
    exact ⟨hmoves, State.peripheralMoves_results s⟩
  · rename_i w rest hw
    exact absurd (by simpa using hw) (hcaller w rest)

/-- Settles O50: a step of an operation ends it with one result word or returns none, and only an operation or the refusal
of an illegal word returns one. -/
theorem resultsComeOneAtATheEnd : Obligations.ResultsComeOneAtATheEnd := by
  intro s t h
  refine ⟨fun op hop => ?_, fun hidle hcaller => step_without_word hidle hcaller h, fun w rest hidle hcaller => ?_⟩
  · rw [step_running hop] at h
    have hnext := exec_goesOn_or_endedBy (State.peripheralMoves_results s) h
    rwa [Instr.ofFields_op] at hnext
  · rw [step_issue hidle hcaller] at h
    unfold State.takeCommand at h
    split at h
    · cases h
      exact .inr (State.endedBy_finish (State.accepting_results s rest) (.inr rfl))
    · rename_i i hi
      have hnext := exec_goesOn_or_endedBy (State.accepting_results s rest) h
      exact hnext.imp_left fun ⟨hcur, hres⟩ => ⟨i, hi, hcur, hres⟩

end Sys2Proof.Machine
end

section
/-! SUPPORT. The statements about the Register Access Layer (40_register_access.md): what the two halves of a register
operation leave behind, which register ids are refused with which outcome, and the algebra of the mask functions. -/

namespace Sys2Proof.Machine

/-! ## The two halves of a register operation -/

/-- What no register operation touches, whether it completes, goes on or is refused: host memory, the setting and the
latches of the transfers. -/
def State.KeptBeside (s t : State) : Prop := sameMemory s t ∧ sameSetting s t ∧ sameTransferLatches s t

/-- `return v` sends one result word with the code `Ok`, wherever the results so far come from. -/
theorem endedWith_ret {s u : State} (v : Word) (hres : u.results = s.results) : endedWith .ok v s (u.ret v) :=
  ⟨rfl, rfl, by rw [State.ret_results, hres, resultWord]⟩

section
variable (s : State) (op : Op) (reg : BitVec 8) (a b : Word) (r : Reg)

theorem oneRead_startReg : oneRead r s ((s.startReg op reg a b).busRead r) := by
  rw [State.busRead_startReg]
  exact ⟨rfl, State.busRead_regs s r, rfl, rfl, rfl⟩

theorem keptBeside_startReg_busRead : s.KeptBeside ((s.startReg op reg a b).busRead r) := by
  rw [State.busRead_startReg]
  refine ⟨fun x => ?_, ⟨?_, ?_, ?_, ?_⟩, ⟨rfl, rfl, rfl, rfl⟩⟩ <;> simp

end

/-- An operation with one read completes in the step that accepts it, with the result computed from the value read. -/
theorem readOperation_completes {s : State} {op : Op} {reg : BitVec 8} {a : Word} {f : Word → Word} {r : Reg}
    (hidle : s.idle) (hr : regOfId reg = some r) :
    ∃ t, s.readOperation op reg a f = .next t ∧ endedWith .ok (f (s.readValue r)) s t ∧ oneRead r s t ∧
      s.KeptBeside t :=
  ⟨_, State.readOperation_ok hidle (readTarget_named hr), endedWith_ret _ (State.busRead_results _ r),
    oneRead_startReg s op reg a 0 r, keptBeside_startReg_busRead s op reg a 0 r⟩

/-- The write half: one write of the word computed from the value the read half latched, and `Ok`. -/
theorem readModifyWrite_writes {s : State} {op : Op} {reg : BitVec 8} {a b : Word} {f : Word → Word} {r : Reg}
    (hop : s.seq.curOp = some op) (hdone : s.seq.readDone = true) (hr : writeTarget reg = .ok r) :
    ∃ t, s.readModifyWrite op reg a b f = .next t ∧ endedWith .ok 0 s t ∧ oneWrite r (f s.seq.tmp) s t ∧
      s.KeptBeside t :=
  ⟨_, State.readModifyWrite_second hop hdone hr, endedWith_ret 0 rfl, ⟨rfl, rfl, rfl, rfl, rfl⟩, fun _ => rfl,
    ⟨rfl, rfl, rfl, rfl⟩, ⟨rfl, rfl, rfl, rfl⟩⟩

/-- Each of the three read-modify-writes is one of `State.readModifyWrite`, with the operands it was given: the ones it
does not use are latched as zero. -/
theorem exec_readModifyWrite {op : Op} (hop : op ∈ [Op.setBits, .clearBits, .writeBits]) (s : State) (reg : BitVec 8)
    (a b : Word) :
    ∃ b' f, exec (Instr.ofFields op reg a b) s = s.readModifyWrite op reg a b' f ∧
      Instr.ofFields op reg a b' = Instr.ofFields op reg a b := by
  simp only [List.mem_cons, List.not_mem_nil, or_false] at hop
  obtain rfl | rfl | rfl := hop
  · exact ⟨0, _, exec_setBits s reg a, rfl⟩
  · exact ⟨0, _, exec_clearBits s reg a, rfl⟩
  · exact ⟨b, _, exec_writeBits s reg a b, rfl⟩

theorem exec_regWrite_ok {s : State} {reg : BitVec 8} {r : Reg} (v : Word) (hidle : s.idle)
    (hr : writeTarget reg = .ok r) :
    exec (.regWrite reg v) s = .next (((s.startReg .regWrite reg v 0).busWrite r v).ret 0) := by
  rw [exec, execRegWrite, State.whenIdle_idle hidle, hr]

/-! ## The refusals -/

theorem readTarget_reserved {reg : BitVec 8} (h : reg = 14 ∨ reg = 15) : readTarget reg = .error .reservedAccess := by
  obtain rfl | rfl := h <;> rfl

/-- The register id is checked before the access right (40_register_access.md R126). -/
theorem writeTarget_of_readTarget_error {reg : BitVec 8} {e : Ending} (h : readTarget reg = .error e) :
    writeTarget reg = .error e := by
  rw [writeTarget, h]

theorem writeTarget_readOnly {reg : BitVec 8} {r : Reg} (h : regOfId reg = some r) (hw : writable r = false) :
    writeTarget reg = .error .accessViolation := by
  rw [writeTarget, readTarget_named h]
  exact if_neg (by simp [hw])

theorem State.readOperation_refused {s : State} {op : Op} {reg : BitVec 8} {a : Word} {f : Word → Word} {e : Ending}
    (hidle : s.idle) (he : readTarget reg = .error e) : s.readOperation op reg a f = .next (s.raise e) := by
  rw [State.readOperation, State.whenIdle_idle hidle, he]

theorem State.readModifyWrite_refused {s : State} {op : Op} {reg : BitVec 8} {a b : Word} {f : Word → Word}
    {e : Ending} (hidle : s.idle) (he : writeTarget reg = .error e) :
    s.readModifyWrite op reg a b f = .next (s.raise e) := by
  rw [State.readModifyWrite, he]
  exact State.whenIdle_idle hidle

theorem exec_regWrite_refused {s : State} {reg : BitVec 8} {e : Ending} (v : Word) (hidle : s.idle)
    (he : writeTarget reg = .error e) : exec (.regWrite reg v) s = .next (s.raise e) := by
  rw [exec, execRegWrite, State.whenIdle_idle hidle, he]

/-- The operations of the Register Access Layer that write: `REG_WRITE` and the read-modify-writes. -/
theorem mem_writingOps {op : Op} : op ∈ writingOps ↔ op = .regWrite ∨ op ∈ [Op.setBits, .clearBits, .writeBits] :=
  List.mem_cons

theorem mem_registerOps {op : Op} : op ∈ registerOps ↔ op = .regRead ∨ op = .readBits ∨ op ∈ writingOps := by
  cases op <;> decide

/-- A writing operation whose register is refused issues nothing, not even the read half. -/
theorem exec_writing_refused {s : State} {op : Op} {reg : BitVec 8} {e : Ending} (a b : Word) (hidle : s.idle)
    (hop : op ∈ writingOps) (he : writeTarget reg = .error e) :
    ∃ t, exec (Instr.ofFields op reg a b) s = .next t ∧ refusedWith e s t := by
  refine ⟨s.raise e, ?_, refused_raise s e⟩
  obtain rfl | hmod := mem_writingOps.mp hop
  · exact exec_regWrite_refused a hidle he
  · obtain ⟨b', f, hexec, -⟩ := exec_readModifyWrite hmod s reg a b
    rw [hexec, State.readModifyWrite_refused hidle he]

/-- An operation whose register id names no register is refused, whether it reads or writes. -/
theorem exec_register_refused {s : State} {op : Op} {reg : BitVec 8} {e : Ending} (a b : Word) (hidle : s.idle)
    (hop : op ∈ registerOps) (he : readTarget reg = .error e) :
    ∃ t, exec (Instr.ofFields op reg a b) s = .next t ∧ refusedWith e s t := by
  obtain rfl | rfl | hwriting := mem_registerOps.mp hop
  · exact ⟨_, (exec_regRead s reg).trans (State.readOperation_refused hidle he), refused_raise s e⟩
  · exact ⟨_, (exec_readBits s reg a).trans (State.readOperation_refused hidle he), refused_raise s e⟩
  · exact exec_writing_refused a b hidle hwriting (writeTarget_of_readTarget_error he)

/-! ## Free values -/

/-- A register that stores nothing answers the next free value in the unconstrained environment, once the read script has
nothing for it (43_peripheral_environment.md R222, R223). -/
theorem State.read_draws {s : State} {r : Reg} (hstored : s.regs.read r = none)
    (henv : s.environment = .unconstrained) (hscript : scripted s.answers r = none) :
    s.readValue r = Config.draw s.draws ∧ s.afterRead r = { s with draws := s.draws + 1 } := by
  simp [State.readValue, State.afterRead, hstored, henv, hscript]

/-! ## The mask functions -/

section
variable {w : Nat} (r m c s : BitVec w)

theorem readMask_setMask : readMask (setMask r m) m = m := by
  ext i hi
  simpa [readMask, setMask] using Or.inr

theorem readMask_clearMask : readMask (clearMask r m) m = 0 := by
  rw [readMask, clearMask, BitVec.and_assoc, BitVec.not_and_self]
  exact BitVec.and_zero

theorem setMask_setMask : setMask (setMask r m) m = setMask r m := by
  rw [setMask, setMask, BitVec.or_assoc, BitVec.or_self]

theorem clearMask_clearMask : clearMask (clearMask r m) m = clearMask r m := by
  rw [clearMask, clearMask, BitVec.and_assoc, BitVec.and_self]

/-- The bits of the clear mask are those of the set mask, with no condition on the masks. -/
theorem readMask_writeMask_cleared : readMask (writeMask r c s) c = s &&& c := by
  rw [readMask, writeMask, BitVec.and_or_distrib_right, BitVec.and_assoc, BitVec.not_and_self]
  simp

theorem readMask_writeMask_kept (h : s &&& ~~~c = 0) : readMask (writeMask r c s) (~~~c) = r &&& ~~~c := by
  rw [readMask, writeMask, BitVec.and_or_distrib_right, BitVec.and_assoc, BitVec.and_self, h]
  exact BitVec.or_zero

end

/-! ## The statements -/

/-- Settles O12: both operations are the same read, and differ in what they make of the value. -/
theorem readOperationsComplete : Obligations.ReadOperationsComplete := by
  intro s reg r m hidle hr
  rw [exec_regRead, exec_readBits]
  exact ⟨readOperation_completes hidle hr, readOperation_completes hidle hr⟩

/-- Settles O14: the masks play no part in the read half. -/
theorem readModifyWriteReadsFirst : Obligations.ReadModifyWriteReadsFirst := by
  intro s op reg r a b hidle hop hr hw
  obtain ⟨b', f, hexec, hfields⟩ := exec_readModifyWrite hop s reg a b
  rw [hexec, State.readModifyWrite_first hidle (writeTarget_named hr hw)]
  exact ⟨_, rfl, oneRead_startReg s op reg a b' r, rfl, rfl, rfl, hfields, State.busRead_results _ r,
    keptBeside_startReg_busRead s op reg a b' r⟩

/-- Settles O15: the word written is the operation's mask function of the value latched. -/
theorem readModifyWriteWritesSecond : Obligations.ReadModifyWriteWritesSecond := by
  intro s reg r m c v hdone hr hw
  have htarget : writeTarget reg = .ok r := writeTarget_named hr hw
  rw [exec_setBits, exec_clearBits, exec_writeBits]
  exact ⟨fun hop => readModifyWrite_writes hop hdone htarget, fun hop => readModifyWrite_writes hop hdone htarget,
    fun hop => readModifyWrite_writes hop hdone htarget⟩

/-- Settles O17: the register id is checked first by every operation of the layer. -/
theorem reservedAndUnknownRegistersAreRefused : Obligations.ReservedAndUnknownRegistersAreRefused := by
  intro s op reg a b hidle hop
  exact ⟨fun h => exec_register_refused a b hidle hop (readTarget_reserved h),
    fun h => exec_register_refused a b hidle hop (readTarget_unknown h)⟩

/-- Settles O18: the six registers are the ones that are not writable. -/
theorem writesToReadOnlyRegistersAreRefused : Obligations.WritesToReadOnlyRegistersAreRefused := by
  intro s op reg r a b hidle hop hr hmem
  have hw : writable r = false := by
    revert hmem
    cases r <;> decide
  exact exec_writing_refused a b hidle hop (writeTarget_readOnly hr hw)

/-- Settles O19: a write-only register stores nothing, so that its read takes the next free value. -/
theorem writeOnlyReadsAreFreshDraws : Obligations.WriteOnlyReadsAreFreshDraws := by
  intro s reg r hidle henv hr hwo hscript
  have hstored : s.regs.read r = none := by obtain rfl | rfl := hwo <;> rfl
  obtain ⟨hvalue, hafter⟩ := State.read_draws hstored henv hscript
  obtain ⟨⟨t, hexec, hend, ⟨htrace, hregs, hdev, hanswers, hdraws⟩, hmem, hset, -⟩, -⟩ :=
    readOperationsComplete s reg r 0 hidle hr
  rw [hvalue] at hend htrace
  rw [hafter] at hdev hanswers hdraws
  exact ⟨t, hexec, hend, htrace, hdraws, hregs, hanswers, hdev, hmem, hset⟩

/-- Settles O21: each law is one of the lemmas above. -/
theorem maskFunctionLaws : Obligations.MaskFunctionLaws := fun _ r m c s =>
  ⟨readMask_setMask r m, readMask_clearMask r m, setMask_setMask r m, clearMask_clearMask r m, rfl,
    fun _ => readMask_writeMask_cleared r c s, readMask_writeMask_kept r c s⟩

/-- Settles O13: the operand is written as it stands. -/
theorem regWriteCompletes : Obligations.RegWriteCompletes := by
  intro s reg r v hidle hr hw
  rw [exec_regWrite_ok v hidle (writeTarget_named hr hw)]
  exact ⟨_, rfl, endedWith_ret 0 rfl, ⟨rfl, rfl, rfl, rfl, rfl⟩, fun _ => rfl, ⟨rfl, rfl, rfl, rfl⟩,
    ⟨rfl, rfl, rfl, rfl⟩⟩

end Sys2Proof.Machine
end

section
/-! SUPPORT. The statements about the Address/Port Encoding (41_address_port_encoding.md): what an encoding operation leaves
behind, which tag the scan gives a text, the byte swaps on a word written as its bytes, and the address writes of `INIT`. -/

namespace Sys2Proof.Machine

/-! ## The encoding operations -/

/-- An encoding operation ends with its value in the step that accepts it and touches nothing but the accessor (R150). -/
theorem encodingResult_completes (s : State) (op : Op) (a b v : Word) :
    ∃ t, s.encodingResult op a b v = .next t ∧ endedWith .ok v s t ∧ noTransaction s t ∧ s.KeptBeside t :=
  ⟨_, rfl, endedWith_ret v rfl, ⟨rfl, rfl, rfl, rfl, rfl⟩, fun _ => rfl, ⟨rfl, rfl, rfl, rfl⟩, ⟨rfl, rfl, rfl, rfl⟩⟩

theorem exec_parseIpv4_inRange {s : State} {text len : Word} (hidle : s.idle)
    (hfits : text.toNat + len.toNat ≤ 2 ^ s.cfg.addrWidth) :
    exec (.parseIpv4 text len) s = s.encodingResult .parseIpv4 text len
      (parseIpv4 s.cfg.octetWidth (Memory.bytes s.mem text.toNat len.toNat)).2 := by
  have hrange : badRange s.cfg text len = false := decide_eq_false (Nat.not_lt.mpr hfits)
  rw [exec, execParseIpv4, State.whenIdle_idle hidle, hrange, if_neg Bool.false_ne_true]

theorem exec_hton16_idle {s : State} (hidle : s.idle) (v : Half) :
    exec (.hton16 v) s = s.encodingResult .hton16 (v.setWidth 32) 0 ((hton16 v).setWidth 32) :=
  State.whenIdle_idle hidle

theorem exec_hton32_idle {s : State} (hidle : s.idle) (v : Word) :
    exec (.hton32 v) s = s.encodingResult .hton32 v 0 (hton32 v) :=
  State.whenIdle_idle hidle

/-- A range of host memory, address by address. -/
theorem Memory.bytes_eq_map (m : Memory) (a n : Nat) :
    Memory.bytes m a n = (List.range n).map (fun i => Memory.read m (a + i)) := by
  apply List.ext_getElem?
  intro i
  obtain hi | hi := Nat.lt_or_ge i n
  · rw [Memory.bytes_get m a n i hi, List.getElem?_map, List.getElem?_range hi, Option.map_some]
  · simp [hi]

/-! ## The tag of a text -/

section
variable (width : Nat) {text : List Byte} (acc : Word) (oct count : Nat)

/-- An invalid character ends the scan with its tag, whatever was scanned before it. -/
theorem scanIpv4_invalidChar (h : text.any (fun c => !(c == charDot || isDigit c)) = true) :
    scanIpv4 width text acc oct count = (.invalidChar, 0) := by
  induction text generalizing acc oct count with
  | nil => cases h
  | cons c rest ih =>
    rw [List.any_cons, Bool.or_eq_true] at h
    unfold scanIpv4
    split
    · rename_i hdot
      exact ih _ _ _ (h.resolve_left (by simp [hdot]))
    · split
      · rename_i hdigit
        exact ih _ _ _ (h.resolve_left (by simp [hdigit]))
      · rfl

/-- Without an invalid character the scan goes to the end of the text, where the dots closed all octets but the last. -/
theorem scanIpv4_tag (h : text.all (fun c => c == charDot || isDigit c) = true) :
    (count + text.count charDot = 3 → (scanIpv4 width text acc oct count).1 = .parsed) ∧
      (count + text.count charDot ≠ 3 → scanIpv4 width text acc oct count = (.wrongCount, 0)) := by
  induction text generalizing acc oct count with
  | nil =>
    simp only [List.count_nil, scanIpv4]
    constructor <;> intro hcount
    · rw [if_pos (by omega)]
    · rw [if_neg (by omega)]
  | cons c rest ih =>
    rw [List.all_cons, Bool.and_eq_true] at h
    obtain ⟨hc, hrest⟩ := h
    unfold scanIpv4
    split
    · rename_i hdot
      rw [hdot, List.count_cons_self, Nat.add_comm (rest.count charDot), ← Nat.add_assoc]
      exact ih _ _ _ hrest
    · rename_i hdot
      rw [List.count_cons_of_ne hdot, if_pos (by simpa [hdot] using hc)]
      exact ih _ _ _ hrest

end

/-- Settles O29: the two lemmas about the scan, from its start. -/
theorem parseFailuresGiveZeroAndTag : Obligations.ParseFailuresGiveZeroAndTag := by
  intro width text
  refine ⟨scanIpv4_invalidChar width 0 0 0, fun hall hcount => ?_, fun hall hcount => ?_⟩
  · exact (scanIpv4_tag width 0 0 0 hall).2 (by rwa [Nat.zero_add])
  · exact (scanIpv4_tag width 0 0 0 hall).1 (by rwa [Nat.zero_add])

/-- The value of a text is 0 unless its tag is `Parsed` (R153). -/
theorem parseIpv4_value_of_not_parsed {width : Nat} {text : List Byte} (h : (parseIpv4 width text).1 ≠ .parsed) :
    (parseIpv4 width text).2 = 0 := by
  obtain ⟨hinvalid, hwrong, hparsed⟩ := parseFailuresGiveZeroAndTag width text
  by_cases hall : text.all (fun c => c == charDot || isDigit c) = true
  · rw [hwrong hall (fun hcount => h (hparsed hall hcount))]
  · rw [hinvalid (by simpa using hall)]

/-- "0.0.0.0" has the value 0 in an accumulator of any width. -/
theorem parseIpv4_zeros (width : Nat) :
    parseIpv4 width [0x30, 0x2E, 0x30, 0x2E, 0x30, 0x2E, 0x30] = (.parsed, 0) := by
  have hzero : addDigit width 0 0x30#8 = 0 := Nat.zero_mod _
  simp [parseIpv4, scanIpv4, charDot, isDigit, hzero, closeOctet]

/-- R154: a text that fails to parse, or the text "0.0.0.0". -/
def ambiguousText (width : Nat) (text : List Byte) : Prop :=
  (parseIpv4 width text).1 ≠ .parsed ∨ text = [0x30, 0x2E, 0x30, 0x2E, 0x30, 0x2E, 0x30]

section
variable {width : Nat} {text : List Byte} (h : ambiguousText width text)
include h

theorem parseIpv4_ambiguous : (parseIpv4 width text).2 = 0 := by
  obtain hfail | rfl := h
  · exact parseIpv4_value_of_not_parsed hfail
  · rw [parseIpv4_zeros]

theorem encodeIp_ambiguous : encodeIp width text = 0 := by
  rw [encodeIp, parseIpv4_ambiguous h]
  rfl

end

/-! ## The byte swaps -/

/-- `HTON16` in shifts (R157). -/
theorem hton16_eq_shifts (v : Half) : hton16 v = (v <<< 8) ||| (v >>> 8) := by
  have hv := v.isLt
  have hleft : v.toNat * 2 ^ 8 % 2 ^ 16 = (v.toNat % 2 ^ 8) <<< 8 := by
    rw [Nat.shiftLeft_eq]
    omega
  have hright : v.toNat / 2 ^ 8 < 2 ^ 8 := by omega
  apply BitVec.eq_of_toNat_eq
  rw [BitVec.toNat_or, BitVec.toNat_shiftLeft, BitVec.toNat_ushiftRight, Nat.shiftLeft_eq, Nat.shiftRight_eq_div_pow,
    hleft, ← Nat.shiftLeft_add_eq_or_of_lt hright, hton16, append_toNat, BitVec.toNat_setWidth, extract_toNat,
    Nat.shiftLeft_eq, Nat.mod_eq_of_lt hright]

/-- A word from its bytes, the top one first. -/
def wordOfBytes (b3 b2 b1 b0 : Byte) : Word := ((b3 ++ b2) ++ b1) ++ b0

theorem exists_wordOfBytes (v : Word) : ∃ b3 b2 b1 b0 : Byte, v = wordOfBytes b3 b2 b1 b0 := by
  refine ⟨v.extractLsb' 24 8, v.extractLsb' 16 8, v.extractLsb' 8 8, v.extractLsb' 0 8, BitVec.eq_of_toNat_eq ?_⟩
  simp only [wordOfBytes, append_toNat, extract_toNat]
  have hv := v.isLt
  omega

section
variable (b3 b2 b1 b0 c3 c2 c1 c0 : Byte)

theorem hton32_wordOfBytes : hton32 (wordOfBytes b3 b2 b1 b0) = wordOfBytes b0 b1 b2 b3 := hton32_append b3 b2 b1 b0

theorem wordOfBytes_toNat : (wordOfBytes b3 b2 b1 b0).toNat =
    ((b3.toNat * 2 ^ 8 + b2.toNat) * 2 ^ 8 + b1.toNat) * 2 ^ 8 + b0.toNat := by
  simp only [wordOfBytes, append_toNat]

theorem wordOfBytes_shiftLeft : wordOfBytes b3 b2 b1 b0 <<< 8 = wordOfBytes b2 b1 b0 0#8 := by
  have h2 := b2.isLt; have h1 := b1.isLt; have h0 := b0.isLt
  apply BitVec.eq_of_toNat_eq
  rw [BitVec.toNat_shiftLeft, Nat.shiftLeft_eq, wordOfBytes_toNat, wordOfBytes_toNat, BitVec.toNat_zero]
  omega

theorem wordOfBytes_shiftRight : wordOfBytes b3 b2 b1 b0 >>> 8 = wordOfBytes 0#8 b3 b2 b1 := by
  have h0 := b0.isLt
  apply BitVec.eq_of_toNat_eq
  rw [BitVec.toNat_ushiftRight, Nat.shiftRight_eq_div_pow, wordOfBytes_toNat, wordOfBytes_toNat,
    BitVec.toNat_zero]
  omega

theorem wordOfBytes_and : wordOfBytes b3 b2 b1 b0 &&& wordOfBytes c3 c2 c1 c0 =
    wordOfBytes (b3 &&& c3) (b2 &&& c2) (b1 &&& c1) (b0 &&& c0) := by
  refine BitVec.and_append.trans ?_
  rw [BitVec.and_append, BitVec.and_append, wordOfBytes]

theorem wordOfBytes_or : wordOfBytes b3 b2 b1 b0 ||| wordOfBytes c3 c2 c1 c0 =
    wordOfBytes (b3 ||| c3) (b2 ||| c2) (b1 ||| c1) (b0 ||| c0) := by
  refine BitVec.or_append.trans ?_
  rw [BitVec.or_append, BitVec.or_append, wordOfBytes]

end

/-- `HTON32` in masks and shifts (R158): each summand holds one byte of the word, the other three being 0. -/
theorem hton32_eq_shifts (v : Word) : hton32 v =
    ((v &&& 0xFF) <<< 24) ||| ((v &&& 0xFF00) <<< 8) ||| ((v >>> 8) &&& 0xFF00) ||| (v >>> 24) := by
  have hlow : (0xFF : Word) = wordOfBytes 0#8 0#8 0#8 (BitVec.allOnes 8) := rfl
  have hnext : (0xFF00 : Word) = wordOfBytes 0#8 0#8 (BitVec.allOnes 8) 0#8 := rfl
  -- The statement's second `0xFF00` is a number that is cast to a word.
  have hcast : ((0xFF00 : Nat) : Word) = 0xFF00 := rfl
  obtain ⟨b3, b2, b1, b0, rfl⟩ := exists_wordOfBytes v
  rw [hton32_wordOfBytes, hlow, hcast, hnext, BitVec.shiftLeft_add _ 8 16, BitVec.shiftLeft_add _ 8 8,
    BitVec.shiftRight_add _ 8 16, BitVec.shiftRight_add _ 8 8]
  simp only [wordOfBytes_shiftLeft, wordOfBytes_shiftRight, wordOfBytes_and, wordOfBytes_or,
    BitVec.and_allOnes, BitVec.and_zero, BitVec.or_zero, BitVec.zero_or]

/-- Settles O26: a word with its bytes reversed twice is the word. -/
theorem byteSwapsAreInvolutions : Obligations.ByteSwapsAreInvolutions := by
  refine ⟨fun v => ?_, fun v => ?_⟩
  · rw [hton16, hton16, BitVec.setWidth_append_eq_right, BitVec.extractLsb'_append_eq_left]
    have hv := v.isLt
    apply BitVec.eq_of_toNat_eq
    rw [append_toNat, extract_toNat, BitVec.toNat_setWidth]
    omega
  · obtain ⟨b3, b2, b1, b0, rfl⟩ := exists_wordOfBytes v
    rw [hton32_wordOfBytes, hton32_wordOfBytes]

/-- Settles O25: each swap is an encoding operation whose value is the reversal in shifts. -/
theorem byteSwapsComplete : Obligations.ByteSwapsComplete := by
  intro s hidle
  refine ⟨fun v => ?_, fun v => ?_⟩
  · rw [exec_hton16_idle hidle, hton16_eq_shifts]
    exact encodingResult_completes s _ _ _ _
  · rw [exec_hton32_idle hidle, hton32_eq_shifts]
    exact encodingResult_completes s _ _ _ _

/-! ## Texts and values -/

/-- Settles O24: the range the operation reads is the text of the statement, address by address. -/
theorem parseIpv4Completes : Obligations.ParseIpv4Completes := by
  intro s text len hidle hfits
  rw [exec_parseIpv4_inRange hidle hfits, ← Memory.bytes_eq_map]
  exact encodingResult_completes s _ _ _ _

/-- Settles O28: the parser takes in one string of digits after the other. -/
theorem octetsArePackedModulo256 : Obligations.OctetsArePackedModulo256 := fun _ _ _ _ => parseIpv4_digits

/-- Formatting takes the octets out of a word where the parser packed them. -/
theorem formatIpv4_append (o1 o2 o3 o4 : Byte) : formatIpv4 (((o1 ++ o2) ++ o3) ++ o4) =
    numeral o1 ++ charDot :: (numeral o2 ++ charDot :: (numeral o3 ++ charDot :: numeral o4)) := by
  obtain ⟨h4, h3, h2, h1⟩ := imageByte_append o1 o2 o3 o4
  unfold imageByte at h1 h2 h3 h4
  rw [formatIpv4, h1, h2, h3, h4]

/-- Settles O27: the numerals parse to the word of their octets, and formatting takes it apart again. -/
theorem parseThenFormatRoundTrips : Obligations.ParseThenFormatRoundTrips := by
  intro o1 o2 o3 o4 text
  rw [parseIpv4_numerals]
  exact ⟨rfl, formatIpv4_append o1 o2 o3 o4⟩

/-! ## The address writes of `INIT` -/

/-- The accepting step of `INIT` writes the encoded receive address to `RXIP`. -/
theorem exec_init_idle {s : State} (hidle : s.idle) : exec .init s =
    .next (((s.start .init 0 0).busWrite .rxip (encodeIp s.cfg.octetWidth s.cfg.rxIp)).setSubStep 1) :=
  State.firstOrNext_idle hidle

/-- The step after it writes the encoded transmit address to `TXIP`. -/
theorem exec_init_second {s : State} (hop : s.seq.curOp = some .init) (hsub : s.seq.subStep = 1) : exec .init s =
    .next ((s.busWrite .txip (encodeIp s.cfg.octetWidth s.cfg.txIp)).setSubStep 2) := by
  rw [exec_init_running hop, State.initStep, hsub]

/-- Settles O30: both kinds of text have the value 0, and so the encoded address 0. -/
theorem failedParseLooksLikeZeroAddress : Obligations.FailedParseLooksLikeZeroAddress := by
  refine ⟨fun s text len hidle hfits h => ?_, fun s hidle h => ?_, fun s hop hsub h => ?_⟩
  · rw [exec_parseIpv4_inRange hidle hfits, parseIpv4_ambiguous h]
    exact ⟨_, rfl, endedWith_ret 0 rfl⟩
  · rw [exec_init_idle hidle, encodeIp_ambiguous h]
    exact ⟨_, rfl, ⟨rfl, rfl, rfl, rfl, rfl⟩, rfl, rfl⟩
  · rw [exec_init_second hop hsub, encodeIp_ambiguous h]
    exact ⟨_, rfl, ⟨rfl, rfl, rfl, rfl, rfl⟩, hop, rfl⟩

end Sys2Proof.Machine
end

section
/-! SUPPORT. The statements about the Frame Transfer Engine (42_frame_transfer_engine.md) that speak of one step: the
transition tables of R197 with the exact next state of each row, the writes of `INIT`, and what a row leaves behind. -/

namespace Sys2Proof.Machine

/-! ## What one transaction leaves behind -/

/-- What no step of the engine that goes on touches, but for the byte that `Draining` stores: the results, host memory
and the setting. -/
def State.KeepsRest (s t : State) : Prop := t.results = s.results ∧ sameMemory s t ∧ sameSetting s t

section
variable (s : State) (q : Latches) (r : Reg) (v : Word)

theorem oneWrite_withSeq : oneWrite r v s { s.busWrite r v with seq := q } := ⟨rfl, rfl, rfl, rfl, rfl⟩

theorem keepsRest_busWrite : s.KeepsRest { s.busWrite r v with seq := q } := ⟨rfl, fun _ => rfl, rfl, rfl, rfl, rfl⟩

/-- One write, and the operation goes on with the latches `q`. -/
theorem write_goesOn : oneWrite r v s { s.busWrite r v with seq := q } ∧
    ({ s.busWrite r v with seq := q } : State).seq = q ∧ s.KeepsRest { s.busWrite r v with seq := q } :=
  ⟨oneWrite_withSeq s q r v, rfl, keepsRest_busWrite s q r v⟩

theorem oneRead_withSeq : oneRead r s { s.busRead r with seq := q } := ⟨rfl, State.busRead_regs s r, rfl, rfl, rfl⟩

/-- A step that changes only the latches and the results issues no transaction. -/
theorem noTransaction_withSeq (rs : List ResultWord) : noTransaction s { s with seq := q, results := rs } ∧
    sameMemory s { s with seq := q, results := rs } ∧ sameSetting s { s with seq := q, results := rs } :=
  ⟨⟨rfl, rfl, rfl, rfl, rfl⟩, fun _ => rfl, rfl, rfl, rfl, rfl⟩

theorem keepsRest_busRead : s.KeepsRest { s.busRead r with seq := q } := by
  refine ⟨?_, fun _ => ?_, ?_, ?_, ?_, ?_⟩ <;> simp

end

/-! ## `INIT` -/

/-- The five writes of `INIT`, in order (R171). -/
def initWrites (c : Config) : List (Reg × Word) :=
  [(.rxip, encodeIp c.octetWidth c.rxIp), (.txip, encodeIp c.octetWidth c.txIp), (.rxport, encodePort c.rxPort),
    (.txport, encodePort c.txPort), (.ctrl, c.literals.ctrlEnable)]

/-- `sub_step` counts the writes issued, so it is the number of the next one. -/
theorem exec_init_writes {s : State} {n : Fin 6} {r : Reg} {v : Word} (hop : s.seq.curOp = some .init)
    (hsub : s.seq.subStep = n) (hw : (initWrites s.cfg)[n.val]? = some (r, v)) :
    exec .init s = .next ((s.busWrite r v).setSubStep (n + 1)) := by
  rw [exec_init_running hop, State.initStep, hsub]
  fin_cases n <;> cases hw <;> rfl

/-- After the last write `INIT` returns. -/
theorem exec_init_returns {s : State} (hop : s.seq.curOp = some .init) (hsub : s.seq.subStep = 5) :
    exec .init s = .next (s.ret 0) := by
  rw [exec_init_running hop, State.initStep, hsub]

/-- One step of `INIT` in progress before its return. -/
theorem init_goesOn {s : State} {n : Fin 6} {r : Reg} {v : Word} (hop : s.seq.curOp = some .init)
    (hsub : s.seq.subStep = n) (hw : (initWrites s.cfg)[n.val]? = some (r, v)) :
    ∃ t, exec .init s = .next t ∧ oneWrite r v s t ∧ t.seq = { s.seq with subStep := n + 1 } ∧ s.KeepsRest t :=
  ⟨_, exec_init_writes hop hsub hw, write_goesOn s _ r v⟩

theorem State.ctrlEnable_spec {s : State} (h : s.specLiterals) : s.cfg.literals.ctrlEnable = 0x00000001 := by
  rw [h]
  rfl

/-- Settles O31: the accepting step issues the first write of the list, each later step the next one. -/
theorem initStepsComplete : Obligations.InitStepsComplete := by
  intro s
  refine ⟨fun hidle => ?_, fun hop hsub => init_goesOn hop hsub rfl, fun hop hsub => init_goesOn hop hsub rfl,
    fun hop hsub => init_goesOn hop hsub rfl, fun hlit hop hsub => ?_, fun hop hsub => ?_⟩
  · exact ⟨_, exec_init_idle hidle, ⟨rfl, rfl, rfl, rfl, rfl⟩, rfl, rfl, rfl, rfl, fun _ => rfl, ⟨rfl, rfl, rfl, rfl⟩,
      rfl, rfl, rfl, rfl⟩
  · rw [← State.ctrlEnable_spec hlit]
    exact init_goesOn hop hsub rfl
  · exact ⟨_, exec_init_returns hop hsub, endedWith_ret 0 rfl, noTransaction_withSeq s _ _⟩

/-! ## Acceptance -/

/-- The state in which a transfer has been accepted (R178, R188). -/
def State.transferAccepted (s : State) (op : Op) (buffer size : Word) : State :=
  { s with
    seq := { (s.start op buffer size).seq with buf := buffer, sizeL := size, phase := .configuring } }

theorem State.acceptTransfer_inRange {s : State} {op : Op} {a b : Word}
    (hfits : a.toNat + b.toNat ≤ 2 ^ s.cfg.addrWidth) : s.acceptTransfer op a b = .next (s.transferAccepted op a b) := by
  have hrange : badRange s.cfg a b = false := decide_eq_false (Nat.not_lt.mpr hfits)
  rw [State.acceptTransfer, hrange, if_neg Bool.false_ne_true]
  rfl

theorem mem_transfers {op : Op} : op ∈ [Op.recvFrame, Op.sendFrame] ↔ op = .recvFrame ∨ op = .sendFrame := by simp

theorem exec_transfer_idle {s : State} {op : Op} {reg : BitVec 8} {a b : Word} (hidle : s.idle)
    (htr : op ∈ [Op.recvFrame, Op.sendFrame]) : exec (Instr.ofFields op reg a b) s = s.acceptTransfer op a b := by
  obtain rfl | rfl := mem_transfers.mp htr
  · exact exec_recv_idle hidle
  · exact exec_send_idle hidle

/-- Settles O33: the range check passes, and accepting latches the operands and nothing else. -/
theorem transfersAreAccepted : Obligations.TransfersAreAccepted := by
  intro s op a b hidle htr hfits
  refine ⟨_, (exec_transfer_idle hidle htr).trans (State.acceptTransfer_inRange hfits), rfl, rfl, rfl, rfl, rfl, ?_,
    rfl, noTransaction_withSeq s _ _⟩
  obtain rfl | rfl := mem_transfers.mp htr <;> rfl

/-! ## The transition tables -/

/-- The rows of R197 for `RECV_FRAME` in progress and the exits a poll limit adds, each with its next state. -/
inductive State.RecvTransition (s : State) : State → Prop
  | sizeWritten (hp : s.seq.phase = .configuring) (hsub : s.seq.subStep = 0) :
      RecvTransition s ((s.busWrite .rxsize s.seq.sizeL).setSubStep 1)
  | started (hp : s.seq.phase = .configuring) (hsub : s.seq.subStep = 1) :
      RecvTransition s
        ((((s.busWrite .ctrl s.cfg.literals.ctrlRxStart).setSubStep 2).setPhase .waitingForData).setPolls 0)
  | waitTimesOut (hp : s.seq.phase = .waitingForData) (hl : s.cfg.pollLimit = some s.seq.polls) :
      RecvTransition s (s.raise .timeoutWaitingForData)
  | notReady (hp : s.seq.phase = .waitingForData) (hl : s.cfg.pollLimit ≠ some s.seq.polls)
      (hb : rxReadyBit s.cfg.literals (s.readValue .rxStatus) = false) :
      RecvTransition s ((s.busRead .rxStatus).setPolls (s.seq.polls + 1))
  | ready (hp : s.seq.phase = .waitingForData) (hl : s.cfg.pollLimit ≠ some s.seq.polls)
      (hb : rxReadyBit s.cfg.literals (s.readValue .rxStatus) = true) :
      RecvTransition s
        (((((s.busRead .rxStatus).setPolls (s.seq.polls + 1)).setOffset 0).setPhase .draining).setPolls 0)
  | drained (hp : s.seq.phase = .draining) (he : s.seq.offset = s.seq.sizeL) : RecvTransition s (s.setPhase .done)
  | delivered (hp : s.seq.phase = .draining) (hne : s.seq.offset ≠ s.seq.sizeL)
      (hb : fifoEmptyBit s.cfg.literals (s.readValue .rxfifoData) = false) :
      RecvTransition s ((((s.busRead .rxfifoData).memWrite (s.bufferAddress s.seq.offset)
        (fifoByte s.cfg.literals (s.readValue .rxfifoData))).setOffset (s.seq.offset + 1)).setPolls 0)
  | fifoEmpty (hp : s.seq.phase = .draining) (hne : s.seq.offset ≠ s.seq.sizeL)
      (hb : fifoEmptyBit s.cfg.literals (s.readValue .rxfifoData) = true)
      (hl : s.cfg.pollLimit ≠ some (s.seq.polls + 1)) :
      RecvTransition s ((s.busRead .rxfifoData).setPolls (s.seq.polls + 1))
  | drainTimesOut (hp : s.seq.phase = .draining) (hne : s.seq.offset ≠ s.seq.sizeL)
      (hb : fifoEmptyBit s.cfg.literals (s.readValue .rxfifoData) = true)
      (hl : s.cfg.pollLimit = some (s.seq.polls + 1)) :
      RecvTransition s (((s.busRead .rxfifoData).setPolls (s.seq.polls + 1)).raise .timeoutDraining)
  | returned (hp : s.seq.phase = .done) : RecvTransition s (s.ret 0)

/-- The rows of R197 for `SEND_FRAME` in progress and the exit a poll limit adds, each with its next state. -/
inductive State.SendTransition (s : State) : State → Prop
  | sizeWritten (hp : s.seq.phase = .configuring) (hsub : s.seq.subStep = 0) :
      SendTransition s ((s.busWrite .txsize s.seq.sizeL).setSubStep 1)
  | started (hp : s.seq.phase = .configuring) (hsub : s.seq.subStep = 1) :
      SendTransition s
        ((((s.busWrite .ctrl s.cfg.literals.ctrlTxStart).setSubStep 2).setOffset 0).setPhase .filling)
  | allFilled (hp : s.seq.phase = .filling) (he : s.seq.offset = s.seq.sizeL) :
      SendTransition s ((s.setPhase .drainWait).setPolls 0)
  | filled (hp : s.seq.phase = .filling) (hne : s.seq.offset ≠ s.seq.sizeL) :
      SendTransition s ((s.busWrite .txfifoData
        ((Memory.read s.mem (s.bufferAddress s.seq.offset)).setWidth 32)).setOffset (s.seq.offset + 1))
  | waitTimesOut (hp : s.seq.phase = .drainWait) (hl : s.cfg.pollLimit = some s.seq.polls) :
      SendTransition s (s.raise .timeoutDrainWait)
  | notDrained (hp : s.seq.phase = .drainWait) (hl : s.cfg.pollLimit ≠ some s.seq.polls)
      (hb : s.readValue .txfifoSize ≠ 0) :
      SendTransition s ((s.busRead .txfifoSize).setPolls (s.seq.polls + 1))
  | drained (hp : s.seq.phase = .drainWait) (hl : s.cfg.pollLimit ≠ some s.seq.polls)
      (hb : s.readValue .txfifoSize = 0) :
      SendTransition s (((s.busRead .txfifoSize).setPolls (s.seq.polls + 1)).setPhase .done)
  | returned (hp : s.seq.phase = .done) : SendTransition s (s.ret 0)

section
variable {s t : State}

/-- The two steps of `Configuring`, of either direction. -/
theorem State.configureStep_iff {r : Reg} {w : Word} {f : State → State} :
    s.configureStep r w f = .next t ↔
      (s.seq.subStep = 0 ∧ t = (s.busWrite r s.seq.sizeL).setSubStep 1) ∨
        (s.seq.subStep = 1 ∧ t = f ((s.busWrite .ctrl w).setSubStep 2)) := by
  constructor
  · intro h
    unfold State.configureStep at h
    split at h <;> cases h
    · exact .inl ⟨‹_›, rfl⟩
    · exact .inr ⟨‹_›, rfl⟩
  · rintro (⟨hsub, rfl⟩ | ⟨hsub, rfl⟩) <;> rw [State.configureStep, hsub]

/-- One iteration of a poll loop: the timeout, the read that leaves the loop, or a read that is counted. -/
theorem State.pollStep_iff {r : Reg} {p : Word → Bool} {e : Ending} {f : State → State} :
    s.pollStep r p e f = .next t ↔
      (s.cfg.pollLimit = some s.seq.polls ∧ t = s.raise e) ∨
        (s.cfg.pollLimit ≠ some s.seq.polls ∧ p (s.readValue r) = true ∧
          t = f ((s.busRead r).setPolls (s.seq.polls + 1))) ∨
        (s.cfg.pollLimit ≠ some s.seq.polls ∧ p (s.readValue r) = false ∧
          t = (s.busRead r).setPolls (s.seq.polls + 1)) := by
  by_cases hl : s.cfg.pollLimit = some s.seq.polls
  · simp [State.pollStep_exhausted hl, hl, @eq_comm _ t]
  cases hp : p (s.readValue r) with
  | true => simp [State.pollStep_leaves hl hp, hl, @eq_comm _ t]
  | false => simp [State.pollStep_stays hl hp, hl, @eq_comm _ t]

theorem State.recvStep_configuring (hp : s.seq.phase = .configuring) :
    s.recvStep = s.configureStep .rxsize s.cfg.literals.ctrlRxStart
      (fun t => (t.setPhase .waitingForData).setPolls 0) := by
  rw [State.recvStep, hp]

theorem State.recvStep_waiting (hp : s.seq.phase = .waitingForData) :
    s.recvStep = s.pollStep .rxStatus (rxReadyBit s.cfg.literals) .timeoutWaitingForData
      (fun t => ((t.setOffset 0).setPhase .draining).setPolls 0) := by
  rw [State.recvStep, hp]

theorem State.recvStep_draining (hp : s.seq.phase = .draining) : s.recvStep = s.drainStep := by
  rw [State.recvStep, hp]

theorem State.sendStep_configuring (hp : s.seq.phase = .configuring) :
    s.sendStep = s.configureStep .txsize s.cfg.literals.ctrlTxStart
      (fun t => (t.setOffset 0).setPhase .filling) := by
  rw [State.sendStep, hp]

theorem State.sendStep_filling (hp : s.seq.phase = .filling) : s.sendStep = s.fillStep := by
  rw [State.sendStep, hp]

theorem State.sendStep_drainWait (hp : s.seq.phase = .drainWait) :
    s.sendStep = s.pollStep .txfifoSize txDrained .timeoutDrainWait (fun t => t.setPhase .done) := by
  rw [State.sendStep, hp]

theorem State.drainStep_transition (hp : s.seq.phase = .draining) (h : s.drainStep = .next t) : s.RecvTransition t := by
  by_cases he : s.seq.offset = s.seq.sizeL
  · cases (State.drainStep_done he).symm.trans h
    exact .drained hp he
  cases hb : fifoEmptyBit s.cfg.literals (s.readValue .rxfifoData) with
  | false =>
    cases (State.drainStep_delivers he hb).symm.trans h
    exact .delivered hp he hb
  | true =>
    by_cases hl : s.cfg.pollLimit = some (s.seq.polls + 1)
    · cases (State.drainStep_exhausted he hb hl).symm.trans h
      exact .drainTimesOut hp he hb hl
    · cases (State.drainStep_empty he hb hl).symm.trans h
      exact .fifoEmpty hp he hb hl

/-- The step of `RECV_FRAME` in progress is its transition table, neither more nor less. -/
theorem State.recvStep_next_iff : s.recvStep = .next t ↔ s.RecvTransition t := by
  constructor
  · intro h
    cases hp : s.seq.phase with
    | configuring =>
      rw [State.recvStep_configuring hp, State.configureStep_iff] at h
      obtain ⟨hsub, rfl⟩ | ⟨hsub, rfl⟩ := h
      · exact .sizeWritten hp hsub
      · exact .started hp hsub
    | waitingForData =>
      rw [State.recvStep_waiting hp, State.pollStep_iff] at h
      obtain ⟨hl, rfl⟩ | ⟨hl, hb, rfl⟩ | ⟨hl, hb, rfl⟩ := h
      · exact .waitTimesOut hp hl
      · exact .ready hp hl hb
      · exact .notReady hp hl hb
    | draining => exact State.drainStep_transition hp (State.recvStep_draining hp ▸ h)
    | done =>
      rw [State.recvStep, hp] at h
      cases h
      exact .returned hp
    | idle | filling | drainWait =>
      rw [State.recvStep, hp] at h
      cases h
  · intro h
    cases h with
    | sizeWritten hp hsub =>
      rw [State.recvStep_configuring hp, State.configureStep_iff]
      exact .inl ⟨hsub, rfl⟩
    | started hp hsub =>
      rw [State.recvStep_configuring hp, State.configureStep_iff]
      exact .inr ⟨hsub, rfl⟩
    | waitTimesOut hp hl => rw [State.recvStep_waiting hp, State.pollStep_exhausted hl]
    | notReady hp hl hb => rw [State.recvStep_waiting hp, State.pollStep_stays hl hb]
    | ready hp hl hb => rw [State.recvStep_waiting hp, State.pollStep_leaves hl hb]
    | drained hp he => rw [State.recvStep_draining hp, State.drainStep_done he]
    | delivered hp hne hb => rw [State.recvStep_draining hp, State.drainStep_delivers hne hb]
    | fifoEmpty hp hne hb hl => rw [State.recvStep_draining hp, State.drainStep_empty hne hb hl]
    | drainTimesOut hp hne hb hl => rw [State.recvStep_draining hp, State.drainStep_exhausted hne hb hl]
    | returned hp => rw [State.recvStep, hp]

theorem State.fillStep_iff :
    s.fillStep = .next t ↔
      (s.seq.offset = s.seq.sizeL ∧ t = (s.setPhase .drainWait).setPolls 0) ∨
        (s.seq.offset ≠ s.seq.sizeL ∧ t = (s.busWrite .txfifoData
          ((Memory.read s.mem (s.bufferAddress s.seq.offset)).setWidth 32)).setOffset (s.seq.offset + 1)) := by
  constructor
  · intro h
    unfold State.fillStep at h
    split at h <;> cases h
    · exact .inl ⟨‹_›, rfl⟩
    · exact .inr ⟨‹_›, rfl⟩
  · rintro (⟨he, rfl⟩ | ⟨hne, rfl⟩)
    · exact if_pos he
    · exact if_neg hne

theorem txDrained_eq_false_iff {v : Word} : txDrained v = false ↔ v ≠ 0 := by
  rw [← Bool.not_eq_true, txDrained_iff]

/-- The step of `SEND_FRAME` in progress is its transition table, neither more nor less. -/
theorem State.sendStep_next_iff : s.sendStep = .next t ↔ s.SendTransition t := by
  constructor
  · intro h
    cases hp : s.seq.phase with
    | configuring =>
      rw [State.sendStep_configuring hp, State.configureStep_iff] at h
      obtain ⟨hsub, rfl⟩ | ⟨hsub, rfl⟩ := h
      · exact .sizeWritten hp hsub
      · exact .started hp hsub
    | filling =>
      rw [State.sendStep_filling hp, State.fillStep_iff] at h
      obtain ⟨he, rfl⟩ | ⟨hne, rfl⟩ := h
      · exact .allFilled hp he
      · exact .filled hp hne
    | drainWait =>
      rw [State.sendStep_drainWait hp, State.pollStep_iff] at h
      obtain ⟨hl, rfl⟩ | ⟨hl, hb, rfl⟩ | ⟨hl, hb, rfl⟩ := h
      · exact .waitTimesOut hp hl
      · exact .drained hp hl ((txDrained_iff _).mp hb)
      · exact .notDrained hp hl (txDrained_eq_false_iff.mp hb)
    | done =>
      rw [State.sendStep, hp] at h
      cases h
      exact .returned hp
    | idle | waitingForData | draining =>
      rw [State.sendStep, hp] at h
      cases h
  · intro h
    cases h with
    | sizeWritten hp hsub =>
      rw [State.sendStep_configuring hp, State.configureStep_iff]
      exact .inl ⟨hsub, rfl⟩
    | started hp hsub =>
      rw [State.sendStep_configuring hp, State.configureStep_iff]
      exact .inr ⟨hsub, rfl⟩
    | allFilled hp he =>
      rw [State.sendStep_filling hp, State.fillStep_iff]
      exact .inl ⟨he, rfl⟩
    | filled hp hne =>
      rw [State.sendStep_filling hp, State.fillStep_iff]
      exact .inr ⟨hne, rfl⟩
    | waitTimesOut hp hl => rw [State.sendStep_drainWait hp, State.pollStep_exhausted hl]
    | notDrained hp hl hb => rw [State.sendStep_drainWait hp, State.pollStep_stays hl (txDrained_eq_false_iff.mpr hb)]
    | drained hp hl hb => rw [State.sendStep_drainWait hp, State.pollStep_leaves hl ((txDrained_iff _).mpr hb)]
    | returned hp => rw [State.sendStep, hp]

variable {a b : Word}

theorem exec_recv_next_iff (hop : s.seq.curOp = some .recvFrame) :
    exec (.recvFrame a b) s = .next t ↔ s.RecvTransition t := by
  rw [exec_recv_running hop, State.recvStep_next_iff]

theorem exec_send_next_iff (hop : s.seq.curOp = some .sendFrame) :
    exec (.sendFrame a b) s = .next t ↔ s.SendTransition t := by
  rw [exec_send_running hop, State.sendStep_next_iff]

end

/-! ## The statements about one step -/

theorem State.ctrlRxStart_spec {s : State} (h : s.specLiterals) : s.cfg.literals.ctrlRxStart = 0x00000002 := by
  rw [h]
  rfl

theorem State.ctrlTxStart_spec {s : State} (h : s.specLiterals) : s.cfg.literals.ctrlTxStart = 0x00000004 := by
  rw [h]
  rfl

/-- Settles O34: the two rows of `Configuring` in each direction, with the start words the spec gives. -/
theorem configuringWritesSizeThenStart : Obligations.ConfiguringWritesSizeThenStart := by
  intro s a b hlit hp
  rw [← State.ctrlRxStart_spec hlit, ← State.ctrlTxStart_spec hlit]
  refine ⟨fun hop hsub => ?_, fun hop hsub => ?_, fun hop hsub => ?_, fun hop hsub => ?_⟩
  · exact ⟨_, (exec_recv_next_iff hop).2 (.sizeWritten hp hsub), write_goesOn s _ .rxsize _⟩
  · exact ⟨_, (exec_recv_next_iff hop).2 (.started hp hsub), write_goesOn s _ .ctrl _⟩
  · exact ⟨_, (exec_send_next_iff hop).2 (.sizeWritten hp hsub), write_goesOn s _ .txsize _⟩
  · exact ⟨_, (exec_send_next_iff hop).2 (.started hp hsub), write_goesOn s _ .ctrl _⟩

/-- In `Draining` the only register read is `RXFIFO_DATA`. -/
theorem State.RecvTransition.busTrace_of_draining {s t : State} (h : s.RecvTransition t)
    (hp : s.seq.phase = .draining) :
    t.busTrace = s.busTrace ∨ t.busTrace = s.busTrace ++ [.read .rxfifoData (s.readValue .rxfifoData)] := by
  cases h with
  | drained => exact .inl rfl
  | delivered | fifoEmpty | drainTimesOut => exact .inr rfl
  | sizeWritten hp' | started hp' | waitTimesOut hp' | notReady hp' | ready hp' | returned hp' =>
    exact absurd (hp.symm.trans hp') (by decide)

/-- Settles O35: the rows of `WaitingForData`, and the registers that `Draining` reads. -/
theorem waitingForDataPollsReadyBit : Obligations.WaitingForDataPollsReadyBit := by
  refine ⟨fun s a b hlit hop hp hl => ?_, fun s t a b hop hp h => ?_⟩
  · have hbit := State.rxReadyBit_spec hlit (s.readValue .rxStatus)
    obtain ⟨hres, hmem, hset⟩ := keepsRest_busRead s s.seq .rxStatus
    cases hb : (s.readValue .rxStatus).getLsbD 0 with
    | true =>
      exact ⟨_, (exec_recv_next_iff hop).2 (.ready hp hl (hbit.trans hb)), oneRead_withSeq s _ .rxStatus, hres, hmem,
        hset, rfl⟩
    | false =>
      exact ⟨_, (exec_recv_next_iff hop).2 (.notReady hp hl (hbit.trans hb)), oneRead_withSeq s _ .rxStatus, hres, hmem,
        hset, rfl⟩
  · obtain htrace | htrace := ((exec_recv_next_iff hop).1 h).busTrace_of_draining hp
    · exact ⟨[], by simpa using htrace, by simp⟩
    · exact ⟨_, htrace, by simp⟩

/-- Settles O36: the four rows of `Draining`. -/
theorem drainingStoresEachDeliveredByte : Obligations.DrainingStoresEachDeliveredByte := by
  intro s a b hlit hop hp hwf
  have hbit := State.fifoEmptyBit_spec hlit (s.readValue .rxfifoData)
  obtain ⟨hres, hmem, hset⟩ := keepsRest_busRead s s.seq .rxfifoData
  refine ⟨fun he => ?_, fun hne hb => ?_, fun hne hb hl => ?_, fun hne hb hl => ?_⟩
  · exact ⟨_, (exec_recv_next_iff hop).2 (.drained hp he), rfl, rfl, noTransaction_withSeq s _ _⟩
  · refine ⟨_, (exec_recv_next_iff hop).2 (.delivered hp hne (hbit.trans hb)),
      ⟨rfl, State.busRead_regs s .rxfifoData, rfl, rfl, rfl⟩, hres, hset, rfl, fun x => ?_⟩
    simp [State.fifoByte_spec hlit, Memory.read_write _ _ _ _ hwf, State.bufferAddress]
  · exact ⟨_, (exec_recv_next_iff hop).2 (.fifoEmpty hp hne (hbit.trans hb) hl), oneRead_withSeq s _ .rxfifoData, hres,
      hmem, hset, rfl⟩
  · refine ⟨_, (exec_recv_next_iff hop).2 (.drainTimesOut hp hne (hbit.trans hb) hl), ⟨rfl, rfl, ?_⟩,
      ⟨rfl, State.busRead_regs s .rxfifoData, rfl, rfl, rfl⟩, hmem, hset, rfl⟩
    simp [resultWord]

/-- Settles O37: the two rows of `Filling`. -/
theorem fillingWritesEachByteInOrder : Obligations.FillingWritesEachByteInOrder := by
  intro s a b hop hp
  refine ⟨fun he => ?_, fun hne => ?_⟩
  · exact ⟨_, (exec_send_next_iff hop).2 (.allFilled hp he), rfl, rfl, noTransaction_withSeq s _ _⟩
  · exact ⟨_, (exec_send_next_iff hop).2 (.filled hp hne), write_goesOn s _ .txfifoData _⟩

/-- Settles O38: the two rows of `DrainWait` that read. -/
theorem drainWaitPollsForZero : Obligations.DrainWaitPollsForZero := by
  intro s a b hop hp hl
  obtain ⟨hres, hmem, hset⟩ := keepsRest_busRead s s.seq .txfifoSize
  by_cases hb : s.readValue .txfifoSize = 0
  · exact ⟨_, (exec_send_next_iff hop).2 (.drained hp hl hb), oneRead_withSeq s _ .txfifoSize, hres, hmem, hset,
      by rw [if_pos hb]; rfl⟩
  · exact ⟨_, (exec_send_next_iff hop).2 (.notDrained hp hl hb), oneRead_withSeq s _ .txfifoSize, hres, hmem, hset,
      by rw [if_neg hb, ← hp]; rfl⟩

theorem exec_transfer_returns {s : State} {op : Op} {reg : BitVec 8} {a b : Word}
    (htr : op ∈ [Op.recvFrame, Op.sendFrame]) (hop : s.seq.curOp = some op) (hp : s.seq.phase = .done) :
    exec (Instr.ofFields op reg a b) s = .next (s.ret 0) := by
  obtain rfl | rfl := mem_transfers.mp htr
  · exact (exec_recv_next_iff hop).2 (.returned hp)
  · exact (exec_send_next_iff hop).2 (.returned hp)

/-- Settles O39: the last row of both tables. -/
theorem doneEndsTheTransfer : Obligations.DoneEndsTheTransfer := by
  intro s op a b htr hop hp
  obtain ⟨hquiet, hmem, hset⟩ := noTransaction_withSeq s { s.seq with curOp := none, phase := .idle } s.results
  exact ⟨_, exec_transfer_returns htr hop hp, endedWith_ret 0 rfl, hquiet, hmem, hset, rfl⟩

/-- Settles O40: the rows of the two timeouts, which leave behind what any `raise` does. -/
theorem pollLimitEndsWithTimeout : Obligations.PollLimitEndsWithTimeout := by
  intro s a b
  refine ⟨fun hop hp hl => ?_, fun hop hp hl => ?_⟩
  · obtain ⟨hend, hquiet, hmem, hset, -⟩ := refused_raise s .timeoutWaitingForData
    exact ⟨_, (exec_recv_next_iff hop).2 (.waitTimesOut hp hl), hend, hquiet, hmem, hset⟩
  · obtain ⟨hend, hquiet, hmem, hset, -⟩ := refused_raise s .timeoutDrainWait
    exact ⟨_, (exec_send_next_iff hop).2 (.waitTimesOut hp hl), hend, hquiet, hmem, hset⟩

end Sys2Proof.Machine
end

section
/-! SUPPORT. The statements about the Frame Transfer Engine that follow from its transition tables: the tables in the
words of R197, the sides of the register block that each direction uses (R198), and the transactions of one step (R199). -/

namespace Sys2Proof.Machine

/-! ## The tables in the spec's words -/

/-- Settles O44: row by row, with the spec's bits for the conditions. -/
theorem recvFollowsTransitionTable : Obligations.RecvFollowsTransitionTable := by
  intro s t a b hlit hop h status word
  have hready : rxReadyBit s.cfg.literals status = status.getLsbD 0 := State.rxReadyBit_spec hlit status
  have hempty : fifoEmptyBit s.cfg.literals word = word.getLsbD 31 := State.fifoEmptyBit_spec hlit word
  obtain ⟨-, hmemStatus, -⟩ := keepsRest_busRead s s.seq .rxStatus
  obtain ⟨-, hmemFifo, -⟩ := keepsRest_busRead s s.seq .rxfifoData
  cases (exec_recv_next_iff hop).1 h with
  | sizeWritten hp hsub => exact .inl ⟨hp, hsub, hp, rfl, fun _ => rfl⟩
  | started hp hsub =>
    rw [State.ctrlRxStart_spec hlit]
    exact .inr (.inl ⟨hp, hsub, rfl, rfl, fun _ => rfl⟩)
  | notReady hp hl hb => exact .inr (.inr (.inl ⟨hp, hready.symm.trans hb, hp, rfl, hmemStatus⟩))
  | ready hp hl hb => exact .inr (.inr (.inr (.inl ⟨hp, hready.symm.trans hb, rfl, rfl, hmemStatus⟩)))
  | fifoEmpty hp hne hb hl =>
    exact .inr (.inr (.inr (.inr (.inl ⟨hp, hne, hempty.symm.trans hb, hp, rfl, rfl, hmemFifo⟩))))
  | delivered hp hne hb =>
    refine .inr (.inr (.inr (.inr (.inr (.inl ⟨hp, hne, hempty.symm.trans hb, hp, rfl, rfl, fun hwf x => ?_⟩)))))
    simp [State.fifoByte_spec hlit, Memory.read_write _ _ _ _ hwf, word]
  | drained hp he => exact .inr (.inr (.inr (.inr (.inr (.inr (.inl ⟨hp, he, rfl, rfl, fun _ => rfl⟩))))))
  | returned hp => exact .inr (.inr (.inr (.inr (.inr (.inr (.inr (.inl ⟨hp, rfl, rfl, rfl, fun _ => rfl⟩)))))))
  | waitTimesOut hp hl =>
    exact .inr (.inr (.inr (.inr (.inr (.inr (.inr (.inr (.inl ⟨by simp [hl], hp, rfl, rfl, rfl, fun _ => rfl⟩))))))))
  | drainTimesOut hp hne hb hl =>
    exact .inr (.inr (.inr (.inr (.inr (.inr (.inr (.inr (.inr
      ⟨by simp [hl], hp, hempty.symm.trans hb, rfl, rfl, rfl, hmemFifo⟩))))))))

/-- Settles O45: row by row. -/
theorem sendFollowsTransitionTable : Obligations.SendFollowsTransitionTable := by
  intro s t a b hlit hop h count
  cases (exec_send_next_iff hop).1 h with
  | sizeWritten hp hsub => exact .inl ⟨hp, hsub, hp, rfl⟩
  | started hp hsub =>
    rw [State.ctrlTxStart_spec hlit]
    exact .inr (.inl ⟨hp, hsub, rfl, rfl⟩)
  | filled hp hne => exact .inr (.inr (.inl ⟨hp, hne, hp, rfl, rfl⟩))
  | allFilled hp he => exact .inr (.inr (.inr (.inl ⟨hp, he, rfl, rfl⟩)))
  | notDrained hp hl hb => exact .inr (.inr (.inr (.inr (.inl ⟨hp, hb, hp, rfl⟩))))
  | drained hp hl hb => exact .inr (.inr (.inr (.inr (.inr (.inl ⟨hp, hb, rfl, by rw [← hb]; rfl⟩)))))
  | returned hp => exact .inr (.inr (.inr (.inr (.inr (.inr (.inl ⟨hp, rfl, rfl, rfl⟩))))))
  | waitTimesOut hp hl => exact .inr (.inr (.inr (.inr (.inr (.inr (.inr ⟨by simp [hl], hp, rfl, rfl, rfl⟩))))))

/-! ## The transactions of one step -/

/-- `t` extends the bus trace of `s` with events that all satisfy `p`. -/
def State.TraceGrows (p : BusEvent → Prop) (s t : State) : Prop :=
  ∃ l : List BusEvent, t.busTrace = s.busTrace ++ l ∧ ∀ e ∈ l, p e

theorem State.traceGrows_none {p : BusEvent → Prop} {s t : State} (h : t.busTrace = s.busTrace) :
    State.TraceGrows p s t := ⟨[], by simpa using h, by simp⟩

theorem State.traceGrows_one {p : BusEvent → Prop} {s t : State} {e : BusEvent} (h : t.busTrace = s.busTrace ++ [e])
    (he : p e) : State.TraceGrows p s t := ⟨[e], h, by simpa using he⟩

/-- `RECV_FRAME` uses `RXSIZE`, `RX_STATUS`, `RXFIFO_DATA`, and in `CTRL` only the receive start word. -/
theorem State.RecvTransition.not_transmitSide {s t : State} (hlit : s.specLiterals) (h : s.RecvTransition t) :
    State.TraceGrows (fun e => e.transmitSide s.cfg.literals = false) s t := by
  cases h with
  | sizeWritten => exact State.traceGrows_one rfl rfl
  | started => exact State.traceGrows_one rfl (by rw [hlit]; rfl)
  | notReady | ready => exact State.traceGrows_one rfl rfl
  | delivered | fifoEmpty | drainTimesOut => exact State.traceGrows_one rfl rfl
  | waitTimesOut | drained | returned => exact State.traceGrows_none rfl

/-- `SEND_FRAME` uses `TXSIZE`, `TXFIFO_DATA`, `TXFIFO_SIZE`, and in `CTRL` only the transmit start word. -/
theorem State.SendTransition.not_receiveSide {s t : State} (hlit : s.specLiterals) (h : s.SendTransition t) :
    State.TraceGrows (fun e => e.receiveSide s.cfg.literals = false) s t := by
  cases h with
  | sizeWritten => exact State.traceGrows_one rfl rfl
  | started => exact State.traceGrows_one rfl (by rw [hlit]; rfl)
  | filled | notDrained | drained => exact State.traceGrows_one rfl rfl
  | waitTimesOut | allFilled | returned => exact State.traceGrows_none rfl

section
variable {s t : State}

theorem step_recv_next_iff (hop : s.seq.curOp = some .recvFrame) :
    step s = .next t ↔ s.peripheralMoves.RecvTransition t := by
  rw [step_running hop]
  exact exec_recv_next_iff (by rwa [State.peripheralMoves_seq])

theorem step_send_next_iff (hop : s.seq.curOp = some .sendFrame) :
    step s = .next t ↔ s.peripheralMoves.SendTransition t := by
  rw [step_running hop]
  exact exec_send_next_iff (by rwa [State.peripheralMoves_seq])

theorem State.specLiterals_peripheralMoves (h : s.specLiterals) : s.peripheralMoves.specLiterals := by
  rwa [State.specLiterals, State.peripheralMoves_cfg]

end

/-- Settles O48: no row of either table uses the other side. -/
theorem directionsAreNeverInterleaved : Obligations.DirectionsAreNeverInterleaved := by
  intro s t hlit h
  have hlit' := State.specLiterals_peripheralMoves hlit
  refine ⟨fun hop => ?_, fun hop => ?_⟩
  · simpa [State.TraceGrows] using ((step_recv_next_iff hop).1 h).not_transmitSide hlit'
  · simpa [State.TraceGrows] using ((step_send_next_iff hop).1 h).not_receiveSide hlit'

/-- Every shape of a step has at most one transaction. -/
theorem stepShape_busTrace {s t : State} (h : stepShape s t) :
    ∃ l : List BusEvent, l.length ≤ 1 ∧ t.busTrace = s.busTrace ++ l := by
  obtain ⟨q, rs, -, rfl | ⟨r, rfl⟩ | ⟨r, v, -, rfl⟩ | ⟨-, -, -, -, rfl⟩⟩ := h
  · exact ⟨[], by simp, by simp⟩
  · exact ⟨[_], by simp, rfl⟩
  · exact ⟨[_], by simp, rfl⟩
  · exact ⟨[_], by simp, rfl⟩

theorem step_busTrace {s t : State} (h : step s = .next t) :
    ∃ l : List BusEvent, l.length ≤ 1 ∧ t.busTrace = s.busTrace ++ l := by
  obtain rfl | ⟨rest, a, v, rfl⟩ | ⟨rest, rfl⟩ | ⟨rest, i, hi⟩ := step_next h
  · exact ⟨[], by simp, by simp⟩
  · exact ⟨[], by simp, by simp⟩
  · exact ⟨[], by simp, by simp⟩
  · simpa using stepShape_busTrace (exec_shape hi)

/-- The shape that changes host memory reads a byte from the receive FIFO. -/
theorem stepShape_delivers {s t : State} (h : stepShape s t) (hmem : ¬ sameMemory s t) :
    ∃ v, fifoEmptyBit s.cfg.literals v = false ∧ t.busTrace = s.busTrace ++ [.read .rxfifoData v] := by
  obtain ⟨q, rs, -, rfl | ⟨r, rfl⟩ | ⟨r, v, -, rfl⟩ | ⟨-, -, -, hb, rfl⟩⟩ := h
  · exact absurd (fun _ => rfl) hmem
  · exact absurd (fun _ => by simp) hmem
  · exact absurd (fun _ => rfl) hmem
  · exact ⟨_, hb, rfl⟩

/-- Settles O46: the shapes of a step, and the one among them that stores a byte. -/
theorem stepIssuesAtMostOneTransaction : Obligations.StepIssuesAtMostOneTransaction := by
  intro s t hlit h
  refine ⟨step_busTrace h, fun hbusy hmem => ?_⟩
  obtain ⟨op, hop⟩ := Option.ne_none_iff_exists'.1 hbusy
  rw [step_running hop] at h
  obtain ⟨v, hb, htrace⟩ := stepShape_delivers (exec_shape h) (by simpa [sameMemory] using hmem)
  refine ⟨v, ?_, by simpa using htrace⟩
  rwa [State.fifoEmptyBit_spec (State.specLiterals_peripheralMoves hlit)] at hb

end Sys2Proof.Machine
end

section
/-! SUPPORT. The statements about whole operations of the Frame Transfer Engine: `INIT` from its command word to its
result (R171, R176), and the two transfers against a read script (R178 to R196, R231), loop by loop. -/

namespace Sys2Proof.Machine

/-! ## Runs -/

/-- Some number of steps leads from `s` to `t`. -/
def State.RunsTo (s t : State) : Prop := ∃ k, run k s = .next t

theorem State.RunsTo.refl (s : State) : s.RunsTo s := ⟨0, run_zero s⟩

theorem State.RunsTo.step {s t u : State} (h : step s = .next t) (htu : t.RunsTo u) : s.RunsTo u := by
  obtain ⟨k, hk⟩ := htu
  exact ⟨k + 1, (run_succ k h).trans hk⟩

theorem State.RunsTo.trans {s t u : State} (hst : s.RunsTo t) (htu : t.RunsTo u) : s.RunsTo u := by
  obtain ⟨j, hj⟩ := hst
  obtain ⟨k, hk⟩ := htu
  exact ⟨j + k, (run_add j k hj).trans hk⟩

/-! ## `INIT` -/

/-- `INIT` is in progress at `t` and has issued the writes `ws` since `s`, where it was accepted with `rest` left to the
caller. -/
structure State.InitWrote (s : State) (rest : List CallerAction) (ws : List (Reg × Word)) (t : State) : Prop where
  curOp : t.seq.curOp = some .init
  subStep : t.seq.subStep.val = ws.length
  cfg : t.cfg = s.cfg
  caller : t.caller = rest
  results : t.results = s.results
  mem : t.mem = s.mem
  busTrace : t.busTrace = s.busTrace ++ ws.map (fun w => .write w.1 w.2)
  regs : t.regs = ws.foldl (fun g w => g.write w.1 w.2) s.regs

theorem State.InitWrote.step {s t : State} {rest : List CallerAction} {ws : List (Reg × Word)} {w : Reg × Word}
    (ht : s.InitWrote rest ws t) (hw : (initWrites s.cfg)[ws.length]? = some w) :
    ∃ u, step t = .next u ∧ s.InitWrote rest (ws ++ [w]) u := by
  obtain ⟨r, v⟩ := w
  have hlen : ws.length < 5 := (List.getElem?_eq_some_iff.1 hw).1
  have hexec := exec_init_writes (s := t.peripheralMoves) (n := t.seq.subStep) (r := r) (v := v)
    (by simpa using ht.curOp) (by simp) (by simpa [ht.subStep, ht.cfg] using hw)
  refine ⟨_, (step_running ht.curOp).trans hexec, ?_, ?_, ?_, ?_, ?_, ?_, ?_, ?_⟩
  · simpa using ht.curOp
  · have hsub := ht.subStep
    simp only [State.setSubStep_seq, List.length_append, List.length_singleton]
    omega
  · simpa using ht.cfg
  · simpa using ht.caller
  · simpa using ht.results
  · simpa using ht.mem
  · simp [ht.busTrace]
  · simp [ht.regs]

/-- The accepting step issues the first write. -/
theorem initWrote_accept {s : State} {rest : List CallerAction} (hidle : s.idle)
    (hcaller : s.caller = .issue (encode .init) :: rest) :
    ∃ t, step s = .next t ∧ s.InitWrote rest ((initWrites s.cfg).take 1) t := by
  have hstep : step s = exec .init (s.accepting rest) :=
    stepRunsDecodedOperation s _ rest _ hidle hcaller (decodeOfEncode .init)
  rw [hstep, exec_init_idle (by simpa [State.idle] using hidle)]
  refine ⟨_, rfl, ⟨rfl, rfl, ?_, rfl, ?_, ?_, ?_, ?_⟩⟩
  all_goals simp [initWrites, State.accepting]

theorem initWrote_run {s : State} {rest : List CallerAction} (hidle : s.idle)
    (hcaller : s.caller = .issue (encode .init) :: rest) {k : Nat} (hk : k < 5) :
    ∃ t, run (k + 1) s = .next t ∧ s.InitWrote rest ((initWrites s.cfg).take (k + 1)) t := by
  induction k with
  | zero =>
    obtain ⟨t, hstep, ht⟩ := initWrote_accept hidle hcaller
    exact ⟨t, run_succ 0 hstep, ht⟩
  | succ k ih =>
    obtain ⟨t, hrun, ht⟩ := ih (by omega)
    have hlt : k + 1 < (initWrites s.cfg).length := hk
    obtain ⟨u, hstep, hu⟩ := ht.step (w := (initWrites s.cfg)[k + 1])
      (by rw [List.length_take_of_le hlt.le, List.getElem?_eq_getElem hlt])
    rw [List.take_append_getElem hlt] at hu
    exact ⟨u, by rw [run_add _ 1 hrun, run_succ 0 hstep, run_zero], hu⟩

/-- Settles O32: five steps issue the five writes, and the sixth returns. -/
theorem initIssuesFiveWritesAndEnds : Obligations.InitIssuesFiveWritesAndEnds := by
  intro s rest hlit hidle hcaller
  obtain ⟨t, hrun, ht⟩ := initWrote_run hidle hcaller (k := 4) (by omega)
  have hreturns : step t = .next (t.peripheralMoves.ret 0) :=
    (step_running ht.curOp).trans
      (exec_init_returns (by simpa using ht.curOp) (by simpa using Fin.ext ht.subStep))
  have hwrites : (initWrites s.cfg).take (4 + 1) = initWrites s.cfg := rfl
  have htrace := ht.busTrace
  have hregs := ht.regs
  rw [hwrites] at htrace hregs
  refine ⟨_, by rw [run_add 5 1 hrun, run_succ 0 hreturns, run_zero], rfl, ?_, ?_, ?_, ?_, ?_, ?_, ?_, ?_, ?_,
    fun _ => ?_⟩
  · simpa using ht.caller
  · simp [ht.results, resultWord, Ending.code]
  · simp [htrace, initWrites, encodeIp, encodePort, State.ctrlEnable_spec hlit]
  iterate 6 simp [hregs, initWrites, Storage.write, encodeIp, encodePort]
  · simp [ht.mem]

/-! ## The unconstrained environment -/

section
variable {s t : State}

/-- A read of a register that stores nothing takes the value at the head of the read script (R223). -/
theorem State.readValue_scripted {r : Reg} {v : Word} {tail : List (Reg × Word)} (henv : s.environment = .unconstrained)
    (hr : s.regs.read r = none) (hscript : s.answers = (r, v) :: tail) : s.readValue r = v := by
  simp [State.readValue, hr, henv, hscript, scripted]

theorem State.busRead_scripted {r : Reg} {v : Word} {tail : List (Reg × Word)}
    (henv : s.environment = .unconstrained) (hr : s.regs.read r = none) (hscript : s.answers = (r, v) :: tail) :
    s.busRead r = { s with
      seq := { s.seq with tmp := v }, answers := tail, busTrace := s.busTrace ++ [.read r v] } := by
  have hafter : s.afterRead r = { s with answers := tail } := by
    simp [State.afterRead, hr, henv, hscript, scripted, dropScripted]
  rw [State.busRead, hafter, State.readValue_scripted henv hr hscript]

theorem State.deviceAfterWrite_unconstrained (henv : s.environment = .unconstrained) (r : Reg) (v : Word) :
    s.deviceAfterWrite r v = s.dev := by
  rw [State.deviceAfterWrite, henv]

/-- In the unconstrained environment a write of `TXFIFO_DATA` leaves only its entry in the trace. -/
theorem State.busWrite_txfifoData (henv : s.environment = .unconstrained) (v : Word) :
    s.busWrite .txfifoData v = { s with busTrace := s.busTrace ++ [.write .txfifoData v] } := by
  rw [State.busWrite, State.deviceAfterWrite_unconstrained henv]
  rfl

theorem State.RecvTransition.step (henv : s.environment = .unconstrained) (hop : s.seq.curOp = some .recvFrame)
    (h : s.RecvTransition t) : step s = .next t := by
  rw [step_recv_next_iff hop, peripheralMoves_unconstrained henv]
  exact h

theorem State.SendTransition.step (henv : s.environment = .unconstrained) (hop : s.seq.curOp = some .sendFrame)
    (h : s.SendTransition t) : step s = .next t := by
  rw [step_send_next_iff hop, peripheralMoves_unconstrained henv]
  exact h

end

/-! ## Poll loops -/

/-- The state after reads of `r` that answered `vs`, each counted by the poll loop, with `tail` left in the script. -/
def State.polled (s : State) (r : Reg) (vs : List Word) (tail : List (Reg × Word)) : State :=
  { s with
    seq := { s.seq with tmp := vs.getLastD s.seq.tmp, polls := s.seq.polls + vs.length }
    answers := tail
    busTrace := s.busTrace ++ vs.map (BusEvent.read r) }

theorem State.polled_cons (s : State) (r : Reg) (v : Word) (vs : List Word) (mid tail : List (Reg × Word)) :
    (s.polled r [v] mid).polled r vs tail = s.polled r (v :: vs) tail := by
  simp [State.polled, Nat.add_assoc, Nat.add_comm 1, List.getLast?_cons]

/-- A read that is counted, against the read script. -/
theorem State.busRead_setPolls_scripted {s : State} {r : Reg} {v : Word} {tail : List (Reg × Word)}
    (henv : s.environment = .unconstrained) (hr : s.regs.read r = none) (hscript : s.answers = (r, v) :: tail) :
    (s.busRead r).setPolls (s.seq.polls + 1) = s.polled r [v] tail := by
  rw [State.busRead_scripted henv hr hscript]
  rfl

/-- Operation `op` is in progress in phase `p`, in the unconstrained environment, with no poll limit and the literals of
the spec. -/
structure State.InPhase (s : State) (op : Op) (p : Phase) : Prop where
  curOp : s.seq.curOp = some op
  phase : s.seq.phase = p
  environment : s.environment = .unconstrained
  pollLimit : s.cfg.pollLimit = none
  literals : s.specLiterals

section
variable {s : State} {op : Op} {ph : Phase}

theorem State.InPhase.unlimited (hs : s.InPhase op ph) (n : Nat) : s.cfg.pollLimit ≠ some n := by
  simp [hs.pollLimit]

theorem State.InPhase.polled (hs : s.InPhase op ph) (r : Reg) (vs : List Word) (tail : List (Reg × Word)) :
    (s.polled r vs tail).InPhase op ph :=
  ⟨hs.curOp, hs.phase, hs.environment, hs.pollLimit, hs.literals⟩

/-- A loop goes on for as long as the script answers what keeps it in its phase: `hstep` says what one answer does. -/
theorem runsTo_polled {r : Reg} {p : Word → Prop} {vs : List Word} {tail : List (Reg × Word)}
    (hstep : ∀ (u : State) (v : Word) (rest : List (Reg × Word)), u.InPhase op ph → p v → u.answers = (r, v) :: rest →
      step u = .next (u.polled r [v] rest))
    (hs : s.InPhase op ph) (hvs : ∀ v ∈ vs, p v) (hscript : s.answers = vs.map (Prod.mk r) ++ tail) :
    s.RunsTo (s.polled r vs tail) := by
  induction vs generalizing s with
  | nil =>
    have hpolled : s.polled r [] tail = s := by
      rw [List.map_nil, List.nil_append] at hscript
      simp [State.polled, ← hscript]
    rw [hpolled]
    exact .refl s
  | cons v vs ih =>
    obtain ⟨hv, hvs⟩ := List.forall_mem_cons.1 hvs
    refine .step (hstep s v _ hs hv hscript) ?_
    rw [← State.polled_cons s r v vs (vs.map (Prod.mk r) ++ tail)]
    exact ih (hs.polled r [v] _) hvs rfl

/-- `WaitingForData` goes on for as long as bit 0 is clear (R181). -/
theorem runsTo_notReady {vs : List Word} {tail : List (Reg × Word)} (hs : s.InPhase .recvFrame .waitingForData)
    (hvs : ∀ v ∈ vs, v.getLsbD 0 = false) (hscript : s.answers = vs.map (Prod.mk .rxStatus) ++ tail) :
    s.RunsTo (s.polled .rxStatus vs tail) := by
  refine runsTo_polled (fun u v rest hu hv hans => ?_) hs hvs hscript
  rw [← State.busRead_setPolls_scripted hu.environment rfl hans]
  refine State.RecvTransition.step hu.environment hu.curOp (.notReady hu.phase (hu.unlimited _) ?_)
  rw [State.rxReadyBit_spec hu.literals, State.readValue_scripted hu.environment rfl hans, hv]

/-- `DrainWait` goes on for as long as the count is not zero (R194). -/
theorem runsTo_notDrained {vs : List Word} {tail : List (Reg × Word)} (hs : s.InPhase .sendFrame .drainWait)
    (hvs : ∀ v ∈ vs, v ≠ 0) (hscript : s.answers = vs.map (Prod.mk .txfifoSize) ++ tail) :
    s.RunsTo (s.polled .txfifoSize vs tail) := by
  refine runsTo_polled (fun u v rest hu hv hans => ?_) hs hvs hscript
  rw [← State.busRead_setPolls_scripted hu.environment rfl hans]
  refine State.SendTransition.step hu.environment hu.curOp (.notDrained hu.phase (hu.unlimited _) ?_)
  rwa [State.readValue_scripted hu.environment rfl hans]

end

/-! ## `Draining` -/

/-- Bytes stored in host memory from an address upward, the first one first. -/
def Memory.store (m : Memory) (a : Nat) : List Byte → Memory
  | [] => m
  | b :: bs => Memory.store (Memory.write m a b) (a + 1) bs

theorem Memory.read_store_outside {m : Memory} {a : Nat} {bs : List Byte} {x : Nat} (hwf : Memory.wf m = true)
    (hx : x < a ∨ a + bs.length ≤ x) : Memory.read (Memory.store m a bs) x = Memory.read m x := by
  induction bs generalizing m a with
  | nil => rfl
  | cons b bs ih =>
    rw [List.length_cons] at hx
    rw [Memory.store, ih (Memory.write_wf m a b hwf) (by omega), Memory.read_write_other m a b x (by omega) hwf]

theorem Memory.read_store_inside {m : Memory} {a : Nat} {bs : List Byte} {i : Nat} {b : Byte}
    (hwf : Memory.wf m = true) (hi : bs[i]? = some b) : Memory.read (Memory.store m a bs) (a + i) = b := by
  induction bs generalizing m a i with
  | nil => simp at hi
  | cons c bs ih =>
    rw [Memory.store]
    cases i with
    | zero =>
      rw [Memory.read_store_outside (Memory.write_wf m a c hwf) (by omega), Nat.add_zero,
        Memory.read_write_same m a c hwf]
      simpa using hi
    | succ i =>
      rw [Nat.add_comm i 1, ← Nat.add_assoc]
      exact ih (Memory.write_wf m a c hwf) hi

theorem Latches.withOffset_self {q : Latches} {n : Word} (h : q.offset = n) :
    ({ q with offset := n } : Latches) = q := by
  subst h
  rfl

/-- The reads of `RXFIFO_DATA` that deliver a byte: those with bit 31 clear (R184). -/
def deliveries (raw : List Word) : List Word := raw.filter (fun v => !v.getLsbD 31)

/-- The bytes that the reads `raw` of `RXFIFO_DATA` deliver. -/
def deliveredBytes (raw : List Word) : List Byte := (deliveries raw).map (fun v => v.extractLsb' 0 8)

/-- The state at the end of the frame, after the reads `raw` of `RXFIFO_DATA`, with `w` and `n` in `tmp` and `polls`. -/
def State.received (s : State) (raw : List Word) (tail : List (Reg × Word)) (w : Word) (n : Nat) : State :=
  { s with
    seq := { s.seq with tmp := w, offset := s.seq.sizeL, polls := n }
    mem := Memory.store s.mem (s.seq.buf.toNat + s.seq.offset.toNat) (deliveredBytes raw)
    answers := tail
    busTrace := s.busTrace ++ raw.map (BusEvent.read .rxfifoData) }

theorem State.InPhase.received {s : State} (hs : s.InPhase .recvFrame .draining) (raw : List Word)
    (tail : List (Reg × Word)) (w : Word) (n : Nat) : (s.received raw tail w n).InPhase .recvFrame .draining :=
  ⟨hs.curOp, hs.phase, hs.environment, hs.pollLimit, hs.literals⟩

/-- The state after one read of `RXFIFO_DATA` that delivered a byte. -/
def State.stored (s : State) (v : Word) (tail : List (Reg × Word)) : State :=
  { s with
    seq := { s.seq with tmp := v, offset := s.seq.offset + 1, polls := 0 }
    mem := Memory.write s.mem (s.seq.buf.toNat + s.seq.offset.toNat) (v.extractLsb' 0 8)
    answers := tail
    busTrace := s.busTrace ++ [.read .rxfifoData v] }

section
variable {s : State} {v : Word} {vs : List Word} {tail : List (Reg × Word)}

theorem deliveries_cons_empty (hv : v.getLsbD 31 = true) : deliveries (v :: vs) = deliveries vs := by
  rw [deliveries, List.filter_cons, hv]
  rfl

theorem deliveries_cons_byte (hv : v.getLsbD 31 = false) : deliveries (v :: vs) = v :: deliveries vs := by
  rw [deliveries, List.filter_cons, hv]
  rfl

/-- A script whose last read delivers a byte has a byte still to deliver while it is not used up. -/
theorem deliveries_length_pos (hlast : ∀ w, (v :: vs).getLast? = some w → w.getLsbD 31 = false) :
    0 < (deliveries (v :: vs)).length := by
  have hne : v :: vs ≠ [] := List.cons_ne_nil v vs
  have hbit := hlast _ (List.getLast?_eq_getLast_of_ne_nil hne)
  exact List.length_pos_of_mem (List.mem_filter.2 ⟨List.getLast_mem hne, by rw [hbit]; rfl⟩)

theorem step_draining_empty (hs : s.InPhase .recvFrame .draining) (hne : s.seq.offset ≠ s.seq.sizeL)
    (hv : v.getLsbD 31 = true) (hscript : s.answers = (.rxfifoData, v) :: tail) :
    step s = .next (s.polled .rxfifoData [v] tail) := by
  rw [← State.busRead_setPolls_scripted hs.environment rfl hscript]
  refine State.RecvTransition.step hs.environment hs.curOp (.fifoEmpty hs.phase hne ?_ (hs.unlimited _))
  rw [State.fifoEmptyBit_spec hs.literals, State.readValue_scripted hs.environment rfl hscript, hv]

theorem step_draining_byte (hs : s.InPhase .recvFrame .draining) (hne : s.seq.offset ≠ s.seq.sizeL)
    (hroom : s.seq.buf.toNat + s.seq.offset.toNat < 2 ^ s.cfg.addrWidth) (hv : v.getLsbD 31 = false)
    (hscript : s.answers = (.rxfifoData, v) :: tail) : step s = .next (s.stored v tail) := by
  have hvalue : s.readValue .rxfifoData = v := State.readValue_scripted hs.environment rfl hscript
  have hb : fifoEmptyBit s.cfg.literals (s.readValue .rxfifoData) = false := by
    rw [State.fifoEmptyBit_spec hs.literals, hvalue, hv]
  rw [State.RecvTransition.step hs.environment hs.curOp (.delivered hs.phase hne hb), hvalue,
    State.fifoByte_spec hs.literals, State.bufferAddress, Nat.mod_eq_of_lt hroom,
    State.busRead_scripted hs.environment rfl hscript]
  rfl

theorem State.received_polled (s : State) (mid : List (Reg × Word)) (w : Word) (n : Nat) (hv : v.getLsbD 31 = true) :
    (s.polled .rxfifoData [v] mid).received vs tail w n = s.received (v :: vs) tail w n := by
  simp [State.received, State.polled, deliveredBytes, deliveries_cons_empty hv]

theorem State.received_stored (s : State) (mid : List (Reg × Word)) (w : Word) (n : Nat) (hv : v.getLsbD 31 = false)
    (hoffset : (s.seq.offset + 1).toNat = s.seq.offset.toNat + 1) :
    (s.stored v mid).received vs tail w n = s.received (v :: vs) tail w n := by
  simp only [State.received, State.stored, deliveredBytes, deliveries_cons_byte hv, hoffset]
  simp [Memory.store, Nat.add_assoc]

/-- `Draining` reads until the frame is complete: each byte delivered goes to the next place of the buffer, and each
empty read changes nothing but the poll count (R184). -/
theorem runsTo_received {raw : List Word} (hs : s.InPhase .recvFrame .draining)
    (hlast : ∀ v, raw.getLast? = some v → v.getLsbD 31 = false)
    (hsize : s.seq.offset.toNat + (deliveries raw).length = s.seq.sizeL.toNat)
    (hfits : s.seq.buf.toNat + s.seq.sizeL.toNat ≤ 2 ^ s.cfg.addrWidth)
    (hscript : s.answers = raw.map (Prod.mk .rxfifoData) ++ tail) : ∃ w n, s.RunsTo (s.received raw tail w n) := by
  induction raw generalizing s with
  | nil =>
    have hoffset : s.seq.offset = s.seq.sizeL := BitVec.eq_of_toNat_eq hsize
    have hreceived : s.received [] tail s.seq.tmp s.seq.polls = s := by
      rw [List.map_nil, List.nil_append] at hscript
      simp [State.received, deliveredBytes, deliveries, Memory.store, Latches.withOffset_self hoffset, ← hscript]
    refine ⟨s.seq.tmp, s.seq.polls, ?_⟩
    rw [hreceived]
    exact .refl s
  | cons v vs ih =>
    have hpos := deliveries_length_pos hlast
    have hne : s.seq.offset ≠ s.seq.sizeL := fun he => by
      rw [he] at hsize
      omega
    have hlast' : ∀ w, vs.getLast? = some w → w.getLsbD 31 = false := fun w hw =>
      hlast w (by rw [List.getLast?_cons, hw, Option.getD_some])
    cases hv : v.getLsbD 31 with
    | true =>
      rw [deliveries_cons_empty hv] at hsize
      obtain ⟨w, n, hrun⟩ :=
        ih (hs.polled .rxfifoData [v] (vs.map (Prod.mk .rxfifoData) ++ tail)) hlast' hsize hfits rfl
      rw [State.received_polled s _ w n hv] at hrun
      exact ⟨w, n, .step (step_draining_empty hs hne hv hscript) hrun⟩
    | false =>
      have hoffset : (s.seq.offset + 1).toNat = s.seq.offset.toNat + 1 := by bv_omega
      rw [deliveries_cons_byte hv, List.length_cons] at hsize
      obtain ⟨w, n, hrun⟩ := ih (s := s.stored v (vs.map (Prod.mk .rxfifoData) ++ tail))
        ⟨hs.curOp, hs.phase, hs.environment, hs.pollLimit, hs.literals⟩ hlast'
        (by simp only [State.stored, hoffset]; omega) hfits rfl
      rw [State.received_stored s _ w n hv hoffset] at hrun
      exact ⟨w, n, .step (step_draining_byte hs hne (by omega) hv hscript) hrun⟩

end

/-! ## `Filling` -/

/-- The writes that put `n` bytes of the frame buffer on the bus, from byte `i` on (R191). -/
def State.fillWrites (s : State) (i n : Nat) : List BusEvent :=
  (List.range' i n).map (fun j =>
    .write .txfifoData ((Memory.read s.mem ((s.seq.buf.toNat + j) % 2 ^ s.cfg.addrWidth)).setWidth 32))

/-- The state after one write of `Filling`. -/
def State.filledOne (s : State) : State :=
  { s with
    seq := { s.seq with offset := s.seq.offset + 1 }
    busTrace := s.busTrace ++ s.fillWrites s.seq.offset.toNat 1 }

/-- The state at the end of the buffer, after `n` writes of `Filling`. -/
def State.filled (s : State) (n : Nat) : State :=
  { s with
    seq := { s.seq with offset := s.seq.sizeL }
    busTrace := s.busTrace ++ s.fillWrites s.seq.offset.toNat n }

theorem State.filled_filledOne {s : State} (n : Nat) (hoffset : (s.seq.offset + 1).toNat = s.seq.offset.toNat + 1) :
    s.filledOne.filled n = s.filled (n + 1) := by
  simp only [State.filled, State.filledOne, hoffset, List.append_assoc]
  rfl

theorem step_filling {s : State} (hs : s.InPhase .sendFrame .filling) (hne : s.seq.offset ≠ s.seq.sizeL) :
    step s = .next s.filledOne := by
  rw [State.SendTransition.step hs.environment hs.curOp (.filled hs.phase hne),
    State.busWrite_txfifoData hs.environment]
  rfl

/-- `Filling` writes every byte of the buffer that is left. -/
theorem runsTo_filled {s : State} {n : Nat} (hs : s.InPhase .sendFrame .filling)
    (hsize : s.seq.offset.toNat + n = s.seq.sizeL.toNat) : s.RunsTo (s.filled n) := by
  induction n generalizing s with
  | zero =>
    have hoffset : s.seq.offset = s.seq.sizeL := BitVec.eq_of_toNat_eq hsize
    have hfilled : s.filled 0 = s := by
      simp [State.filled, State.fillWrites, Latches.withOffset_self hoffset]
    rw [hfilled]
    exact .refl s
  | succ n ih =>
    have hne : s.seq.offset ≠ s.seq.sizeL := fun he => by
      rw [he] at hsize
      omega
    have hoffset : (s.seq.offset + 1).toNat = s.seq.offset.toNat + 1 := by bv_omega
    refine .step (step_filling hs hne) ?_
    rw [← State.filled_filledOne n hoffset]
    exact ih ⟨hs.curOp, hs.phase, hs.environment, hs.pollLimit, hs.literals⟩
      (by simp only [State.filledOne, hoffset]; omega)

/-! ## Acceptance and `Configuring` -/

section
variable {s : State} {rest : List CallerAction} {buf size : Word}

/-- The transfer has been accepted, and both writes of `Configuring` have been issued (R179, R189). -/
def State.configured (s : State) (rest : List CallerAction) (op : Op) (buffer size : Word) (sizeReg : Reg)
    (command : Word) : State :=
  ((((({ s with caller := rest } : State).transferAccepted op buffer size).busWrite sizeReg size).setSubStep 1).busWrite
    .ctrl command).setSubStep 2

theorem step_acceptsTransfer {op : Op} (henv : s.environment = .unconstrained) (hidle : s.idle)
    (htr : op ∈ [Op.recvFrame, Op.sendFrame]) (hfits : buf.toNat + size.toNat ≤ 2 ^ s.cfg.addrWidth)
    (hcaller : s.caller = .issue (encode (Instr.ofFields op 0 buf size)) :: rest) :
    step s = .next (({ s with caller := rest } : State).transferAccepted op buf size) := by
  rw [stepRunsDecodedOperation s _ rest _ hidle hcaller (decodeOfEncode _), peripheralMoves_unconstrained henv]
  exact (exec_transfer_idle (s := { s with caller := rest }) hidle htr).trans (State.acceptTransfer_inRange hfits)

/-- The state in which `RECV_FRAME` begins to wait for data. -/
def State.recvWaiting (s : State) (rest : List CallerAction) (buffer size : Word) : State :=
  ((s.configured rest .recvFrame buffer size .rxsize s.cfg.literals.ctrlRxStart).setPhase .waitingForData).setPolls 0

/-- The state in which `SEND_FRAME` begins to fill the transmit FIFO. -/
def State.sendFilling (s : State) (rest : List CallerAction) (buffer size : Word) : State :=
  ((s.configured rest .sendFrame buffer size .txsize s.cfg.literals.ctrlTxStart).setOffset 0).setPhase .filling

theorem runsTo_recvWaiting (henv : s.environment = .unconstrained) (hidle : s.idle)
    (hfits : buf.toNat + size.toNat ≤ 2 ^ s.cfg.addrWidth)
    (hcaller : s.caller = .issue (encode (.recvFrame buf size)) :: rest) : s.RunsTo (s.recvWaiting rest buf size) := by
  refine .step (step_acceptsTransfer (op := .recvFrame) henv hidle (by simp) hfits hcaller) ?_
  refine .step (State.RecvTransition.step henv rfl (.sizeWritten rfl rfl)) ?_
  exact .step (State.RecvTransition.step henv rfl (.started rfl rfl)) (.refl _)

theorem runsTo_sendFilling (henv : s.environment = .unconstrained) (hidle : s.idle)
    (hfits : buf.toNat + size.toNat ≤ 2 ^ s.cfg.addrWidth)
    (hcaller : s.caller = .issue (encode (.sendFrame buf size)) :: rest) : s.RunsTo (s.sendFilling rest buf size) := by
  refine .step (step_acceptsTransfer (op := .sendFrame) henv hidle (by simp) hfits hcaller) ?_
  refine .step (State.SendTransition.step henv rfl (.sizeWritten rfl rfl)) ?_
  exact .step (State.SendTransition.step henv rfl (.started rfl rfl)) (.refl _)

end

/-! ## The whole transfers -/

/-- The state in which `RECV_FRAME` begins to drain, after a read of `RX_STATUS` that answered `v`. -/
def State.recvReady (s : State) (v : Word) (tail : List (Reg × Word)) : State :=
  { s with
    seq := { s.seq with tmp := v, offset := 0, phase := .draining, polls := 0 }
    answers := tail
    busTrace := s.busTrace ++ [.read .rxStatus v] }

section
variable {s : State} {v : Word} {vs : List Word} {tail : List (Reg × Word)}

theorem State.InPhase.recvReady (hs : s.InPhase .recvFrame .waitingForData) (v : Word) (tail : List (Reg × Word)) :
    (s.recvReady v tail).InPhase .recvFrame .draining :=
  ⟨hs.curOp, rfl, hs.environment, hs.pollLimit, hs.literals⟩

theorem step_waiting_ready (hs : s.InPhase .recvFrame .waitingForData) (hv : v.getLsbD 0 = true)
    (hscript : s.answers = (.rxStatus, v) :: tail) : step s = .next (s.recvReady v tail) := by
  have hvalue : s.readValue .rxStatus = v := State.readValue_scripted hs.environment rfl hscript
  have hb : rxReadyBit s.cfg.literals (s.readValue .rxStatus) = true := by
    rw [State.rxReadyBit_spec hs.literals, hvalue, hv]
  rw [State.RecvTransition.step hs.environment hs.curOp (.ready hs.phase (hs.unlimited _) hb),
    State.busRead_scripted hs.environment rfl hscript]
  rfl

/-- `WaitingForData` polls until bit 0 is set (R181). -/
theorem runsTo_recvReady (hs : s.InPhase .recvFrame .waitingForData) (hvs : ∀ w ∈ vs, w.getLsbD 0 = false)
    (hv : v.getLsbD 0 = true) (hscript : s.answers = vs.map (Prod.mk .rxStatus) ++ (.rxStatus, v) :: tail) :
    s.RunsTo ((s.polled .rxStatus vs ((.rxStatus, v) :: tail)).recvReady v tail) :=
  (runsTo_notReady hs hvs hscript).trans (.step (step_waiting_ready (hs.polled _ _ _) hv rfl) (.refl _))

end

/-- At the end of the frame `RECV_FRAME` takes two more steps: `Done`, and its return. -/
theorem runsTo_recvReturn {s : State} (hs : s.InPhase .recvFrame .draining) (he : s.seq.offset = s.seq.sizeL) :
    s.RunsTo ((s.setPhase .done).ret 0) := by
  refine .step (State.RecvTransition.step hs.environment hs.curOp (.drained hs.phase he)) ?_
  exact .step (State.RecvTransition.step hs.environment hs.curOp (.returned rfl)) (.refl _)

/-- `DrainWait` polls until the count is zero (R194), and two more steps end the operation. -/
theorem runsTo_sendReturn {s : State} {vs : List Word} {tail : List (Reg × Word)}
    (hs : s.InPhase .sendFrame .drainWait) (hvs : ∀ v ∈ vs, v ≠ 0)
    (hscript : s.answers = vs.map (Prod.mk .txfifoSize) ++ (.txfifoSize, 0) :: tail) :
    s.RunsTo ((((s.polled .txfifoSize vs ((.txfifoSize, 0) :: tail)).polled .txfifoSize [0] tail).setPhase .done).ret
      0) := by
  refine (runsTo_notDrained hs hvs hscript).trans ?_
  have hu := hs.polled .txfifoSize vs ((.txfifoSize, 0) :: tail)
  have hvalue := State.readValue_scripted (r := .txfifoSize) hu.environment rfl rfl
  have hstep := State.SendTransition.step hu.environment hu.curOp (.drained hu.phase (hu.unlimited _) hvalue)
  rw [State.busRead_setPolls_scripted hu.environment rfl rfl] at hstep
  refine .step hstep ?_
  exact .step (State.SendTransition.step hu.environment hu.curOp (.returned rfl)) (.refl _)

/-- Settles O41: acceptance and the writes of `Configuring`, the wait for data, the drain, and the return. -/
theorem recvFrameReceivesTheFrame : Obligations.RecvFrameReceivesTheFrame := by
  intro s rest buf notReady ready raw tail data size hlit hidle henv hlimit hwf hnot hready hlast hlen hfits hcaller
    hscript
  have hsize : size.toNat = data.length := Nat.mod_eq_of_lt hlen
  rw [← hsize] at hfits
  have hwaiting : (s.recvWaiting rest buf size).InPhase .recvFrame .waitingForData := ⟨rfl, rfl, henv, hlimit, hlit⟩
  have hwait := runsTo_recvReady hwaiting hnot hready hscript
  have hpolled := hwaiting.polled .rxStatus notReady ((.rxStatus, ready) :: (raw.map (Prod.mk .rxfifoData) ++ tail))
  have hdraining := hpolled.recvReady ready (raw.map (Prod.mk .rxfifoData) ++ tail)
  obtain ⟨w, n, hdrain⟩ := runsTo_received (tail := tail) hdraining hlast ((Nat.zero_add _).trans hsize.symm) hfits rfl
  have hreturn := runsTo_recvReturn (hdraining.received raw tail w n) rfl
  obtain ⟨k, hrun⟩ := (runsTo_recvWaiting henv hidle hfits hcaller).trans (hwait.trans (hdrain.trans hreturn))
  refine ⟨k, _, hrun, rfl, rfl, rfl, rfl, ?_, fun i v hv => ?_, fun x hx => ?_⟩
  · simp [State.received, State.recvReady, State.polled, State.recvWaiting, State.configured, State.transferAccepted,
      State.ctrlRxStart_spec hlit]
  · have hbyte : (deliveredBytes raw)[i]? = some (v.extractLsb' 0 8) := by
      rw [deliveredBytes, List.getElem?_map]
      exact congrArg (Option.map _) hv
    exact Memory.read_store_inside (a := buf.toNat) hwf hbyte
  · have hlength : (deliveredBytes raw).length = data.length := List.length_map _
    exact Memory.read_store_outside (a := buf.toNat) hwf (hlength ▸ hx)

/-- Settles O42: acceptance and the writes of `Configuring`, the fill from offset 0, the polls, and the return. -/
theorem sendFrameSendsTheBuffer : Obligations.SendFrameSendsTheBuffer := by
  intro s rest buf size pending tail hlit hidle henv hlimit hpending hfits hcaller hscript
  have hfilling : (s.sendFilling rest buf size).InPhase .sendFrame .filling := ⟨rfl, rfl, henv, hlimit, hlit⟩
  have hfill := runsTo_filled (n := size.toNat) hfilling (Nat.zero_add _)
  have hleave := State.SendTransition.step (s := (s.sendFilling rest buf size).filled size.toNat) henv rfl
    (.allFilled rfl rfl)
  have hreturn := runsTo_sendReturn
    (s := (((s.sendFilling rest buf size).filled size.toNat).setPhase .drainWait).setPolls 0)
    ⟨rfl, rfl, henv, hlimit, hlit⟩ hpending hscript
  obtain ⟨k, hrun⟩ := (runsTo_sendFilling henv hidle hfits hcaller).trans (hfill.trans (.step hleave hreturn))
  refine ⟨k, _, hrun, rfl, rfl, ?_, rfl, fun _ => ?_, ?_⟩
  all_goals simp [State.polled, State.filled, State.fillWrites, State.sendFilling, State.configured,
    State.transferAccepted, State.ctrlTxStart_spec hlit, List.range_eq_range', resultWord, Ending.code]

end Sys2Proof.Machine
end

section
/-! SUPPORT. The statements about the peripheral (43_peripheral_environment.md): the storage registers in every environment
(R219), and the reference device of decision D22: its steps, its answers to reads, and what a write does to it. -/

namespace Sys2Proof.Machine

/-! ## The storage registers -/

theorem Storage.exists_read (g : Storage) {r : Reg}
    (hr : r ∈ [Reg.rxip, Reg.txip, Reg.rxport, Reg.txport, Reg.rxsize, Reg.txsize]) : ∃ v, g.read r = some v := by
  cases r <;> simp [Storage.read] at hr ⊢

/-- A storage register that the block holds unchanged answers unchanged, whatever else has become of the state. -/
theorem State.readValue_of_same_stored {s t : State} {r : Reg} {v : Word} (hs : s.regs.read r = some v)
    (ht : t.regs.read r = s.regs.read r) : t.readValue r = s.readValue r :=
  (State.readValue_of_stored (ht.trans hs)).trans (State.readValue_of_stored hs).symm

/-! ## The steps of the reference device -/

/-- The two byte streams of R211 and R214 stand in `e` as in `d`, and so do the switches that no device step sets. -/
structure Device.SameStreams (d e : Device) : Prop where
  received : e.rxFifo ++ e.wireRx = d.rxFifo ++ d.wireRx
  sent : e.wireTx ++ e.txFifo = d.wireTx ++ d.txFifo
  enabled : e.enabled = d.enabled
  deviceFault : e.deviceFault = d.deviceFault

theorem Device.SameStreams.refl (d : Device) : d.SameStreams d := ⟨rfl, rfl, rfl, rfl⟩

theorem Device.SameStreams.trans {d e f : Device} (hde : d.SameStreams e) (hef : e.SameStreams f) : d.SameStreams f where
  received := hef.received.trans hde.received
  sent := hef.sent.trans hde.sent
  enabled := hef.enabled.trans hde.enabled
  deviceFault := hef.deviceFault.trans hde.deviceFault

section
variable (d : Device) (c : Config)

/-- The byte that arrives is the first on the wire, and goes to the tail of the receive FIFO (R230). -/
theorem Device.rxByteStep_sameStreams (depth : Nat) : d.SameStreams (d.rxByteStep depth) := by
  unfold Device.rxByteStep
  split
  · exact .refl d
  · rename_i hwire
    split
    · exact ⟨by simp [hwire], rfl, rfl, rfl⟩
    · exact .refl d

/-- The byte that leaves is the head of the transmit FIFO, and is the last one sent (R230). -/
theorem Device.txByteStep_sameStreams : d.SameStreams d.txByteStep := by
  unfold Device.txByteStep
  split
  · exact .refl d
  · rename_i hfifo
    split
    · exact ⟨rfl, by simp [hfifo], rfl, rfl⟩
    · exact .refl d

theorem Device.moves_cons (m : DeviceMove) (ms : List DeviceMove) :
    d.moves c (m :: ms) = (d.move c m).moves c ms := rfl

theorem Device.moves_sameStreams (ms : List DeviceMove) : d.SameStreams (d.moves c ms) := by
  induction ms generalizing d with
  | nil => exact .refl d
  | cons m ms ih =>
    rw [Device.moves_cons]
    refine Device.SameStreams.trans ?_ (ih (d.move c m))
    cases m with
    | rxByte => exact d.rxByteStep_sameStreams c.rxDepth
    | txByte => exact d.txByteStep_sameStreams

variable {d} (hoff : d.enabled = false)
include hoff

theorem Device.move_disabled (m : DeviceMove) : d.move c m = d := by
  cases m with
  | rxByte =>
    simp only [Device.move, Device.rxByteStep, hoff]
    split <;> simp
  | txByte =>
    simp only [Device.move, Device.txByteStep, hoff]
    split <;> simp

/-- A device that is not enabled takes no step (R230). -/
theorem Device.moves_disabled (ms : List DeviceMove) : d.moves c ms = d := by
  induction ms with
  | nil => rfl
  | cons m ms ih => rw [Device.moves_cons, Device.move_disabled c hoff, ih]

end

/-! ## The words of `CTRL` -/

theorem toNat_le_seven_of_no_bit_above {v : Word} (h : v &&& ~~~7#32 = 0#32) : v.toNat ≤ 7 := by
  have hv : v = v &&& 7#32 :=
    calc v = v &&& (~~~7#32 ||| 7#32) := BitVec.and_allOnes.symm
      _ = v &&& 7#32 := by rw [BitVec.and_or_distrib_left, h, BitVec.zero_or]
  rw [hv, BitVec.toNat_and]
  exact Nat.and_le_right

/-- A word but 0, 1, 2 and 4 has more than one command bit, or a bit above the three (R226). -/
theorem meaninglessCommand_of_not_mem {v : Word} (hv : v ∉ ([0, 1, 2, 4] : List Word)) :
    meaninglessCommand literals v = true := by
  by_cases hhigh : v &&& ~~~7#32 = 0#32
  · have hlow : ∀ n ≤ 7, BitVec.ofNat 32 n ∉ ([0, 1, 2, 4] : List Word) →
        meaninglessCommand literals (BitVec.ofNat 32 n) = true := by decide
    simpa using hlow v.toNat (toNat_le_seven_of_no_bit_above hhigh) (by simpa using hv)
  · exact Bool.or_eq_true_iff.2 (.inr (bne_iff_ne.2 hhigh))

/-! ## The reference device on the bus -/

section
variable {s : State} (henv : s.environment = .reference)
include henv

/-- A register that stores nothing is answered by the device (R227). -/
theorem State.readValue_reference {r : Reg} (hr : s.regs.read r = none) :
    s.readValue r = s.dev.readValue s.cfg.literals r := by
  unfold State.readValue
  rw [hr, henv]

/-- A read leaves the device as its own rule for reads does; the storage registers are none of the device's (R227). -/
theorem State.busRead_dev_reference (r : Reg) : (s.busRead r).dev = s.dev.afterRead r := by
  rw [State.busRead_dev]
  unfold State.afterRead
  rw [henv]
  cases r <;> rfl

theorem State.busWrite_dev_reference (r : Reg) (v : Word) : (s.busWrite r v).dev = s.dev.write s.cfg s.regs r v := by
  rw [State.busWrite_dev]
  unfold State.deviceAfterWrite
  rw [henv]

end

theorem Device.afterRead_of_ne (d : Device) {r : Reg} (hr : r ≠ .rxfifoData) : d.afterRead r = d := if_neg hr

section
variable {d : Device}

/-- An empty FIFO answers its empty bit, and a read removes nothing (R227). -/
theorem Device.read_rxfifoData_of_empty (l : Literals) (h : d.rxFifo = []) :
    d.readValue l .rxfifoData = l.rxfifoEmpty ∧ d.afterRead .rxfifoData = d := by
  obtain ⟨rxFifo⟩ := d
  obtain rfl : rxFifo = [] := h
  exact ⟨rfl, rfl⟩

/-- A FIFO with a head answers it, and a read removes it (R227). -/
theorem Device.read_rxfifoData_of_head (l : Literals) {b : Byte} {rest : List Byte} (h : d.rxFifo = b :: rest) :
    d.readValue l .rxfifoData = b.setWidth 32 ∧ d.afterRead .rxfifoData = { d with rxFifo := rest } := by
  obtain ⟨rxFifo⟩ := d
  obtain rfl : rxFifo = b :: rest := h
  exact ⟨rfl, rfl⟩

end

/-- The registers with no answer of their own answer 0 (R227). -/
theorem Device.readValue_zero (d : Device) (l : Literals) {r : Reg}
    (hr : r ∈ [Reg.status, Reg.txStatus, Reg.ctrl, Reg.txfifoData]) : d.readValue l r = 0 := by
  cases r <;> simp [Device.readValue] at hr ⊢

theorem Storage.read_none (g : Storage) {r : Reg} (hr : r ∈ [Reg.status, Reg.txStatus, Reg.ctrl, Reg.txfifoData]) :
    g.read r = none := by
  cases r <;> simp [Storage.read] at hr ⊢

/-- A write of a storage register does not reach the device (R228). -/
theorem Device.write_of_stored (d : Device) (c : Config) {g : Storage} {r : Reg} {old : Word} (v : Word)
    (h : g.read r = some old) : d.write c g r v = d := by
  have hctrl : r ≠ .ctrl := by
    rintro rfl
    cases h
  have htx : r ≠ .txfifoData := by
    rintro rfl
    cases h
  exact (if_neg hctrl).trans (if_neg htx)

/-- With the literals the spec gives, the byte queued is the low byte of the word (R228). -/
theorem Device.push_of_room (d : Device) {depth : Nat} (v : Word) (h : d.txFifo.length < depth) :
    d.push literals depth v = { d with txFifo := d.txFifo ++ [v.extractLsb' 0 8] } := by
  rw [← fifoByte_eq]
  exact if_pos h

theorem Device.push_of_full (d : Device) (l : Literals) {depth : Nat} (v : Word) (h : depth ≤ d.txFifo.length) :
    d.push l depth v = { d with deviceFault := true } := if_neg h.not_gt

/-! ## The statements -/

/-- Settles O20: every environment answers the stored value, and only a write of the register replaces it. -/
theorem storageRegistersReturnLastWritten : Obligations.StorageRegistersReturnLastWritten := by
  intro s r v hr
  obtain ⟨old, hold⟩ := s.regs.exists_read hr
  refine ⟨State.readValue_of_stored ?_, fun q x hq => State.readValue_of_same_stored hold ?_,
    fun q => State.readValue_of_same_stored hold ?_, State.readValue_of_same_stored hold ?_⟩
  · simp [Storage.read_write, hold]
  · simp [Storage.read_write, hq.symm]
  · simp
  · simp

/-- Settles O57: the four words that mean something run through the device's rule for commands. -/
theorem deviceObeysControlCommands : Obligations.DeviceObeysControlCommands := by
  intro s hlit henv
  have hdev : ∀ v, (s.busWrite .ctrl v).dev = s.dev.command literals s.regs v := fun v =>
    hlit ▸ State.busWrite_dev_reference henv .ctrl v
  exact ⟨fun v hv => (hdev v).trans (if_pos (meaninglessCommand_of_not_mem hv)), hdev 0, hdev 1, hdev 2, hdev 4,
    fun _ => rfl⟩

/-- Settles O58: on the bus the state does as the device's own rules for reads and writes say, register by register. -/
theorem deviceServesTheBus : Obligations.DeviceServesTheBus := by
  intro s hlit henv
  have hvalue (r : Reg) (hr : s.regs.read r = none) : s.readValue r = s.dev.readValue literals r :=
    hlit ▸ State.readValue_reference henv hr
  have hread := State.busRead_dev_reference henv
  have hwrite := State.busWrite_dev_reference henv
  have hpush (v : Word) : (s.busWrite .txfifoData v).dev = s.dev.push literals s.cfg.txDepth v :=
    hlit ▸ hwrite .txfifoData v
  refine ⟨fun hempty => ?_, fun b rest hfifo => ?_, hvalue .rxStatus rfl, fun r hr => ?_, hvalue .rxfifoSize rfl,
    hvalue .txfifoSize rfl, fun r v => State.readValue_of_stored, fun r => ⟨State.busRead_regs s r, fun hr => ?_⟩,
    fun r old v hold => ⟨?_, ?_⟩, fun v => ⟨hwrite .ctrl v, rfl⟩, fun v hroom => ?_, fun v hfull => ?_⟩
  · rw [hvalue .rxfifoData rfl, hread]
    exact Device.read_rxfifoData_of_empty literals hempty
  · rw [hvalue .rxfifoData rfl, hread]
    exact Device.read_rxfifoData_of_head literals hfifo
  · exact (hvalue r (s.regs.read_none hr)).trans (s.dev.readValue_zero literals hr)
  · exact (hread r).trans (s.dev.afterRead_of_ne hr)
  · simp [Storage.read_write, hold]
  · exact (hwrite r v).trans (s.dev.write_of_stored s.cfg v hold)
  · exact (hpush v).trans (s.dev.push_of_room v hroom)
  · exact (hpush v).trans (s.dev.push_of_full literals v hfull)

/-- Settles O59: each device step moves one byte from the front of one list to the end of the other, or none. -/
theorem deviceStepsKeepByteOrder : Obligations.DeviceStepsKeepByteOrder := by
  intro d c ms
  obtain ⟨hreceived, hsent, henabled, hfault⟩ := d.moves_sameStreams c ms
  exact ⟨hreceived, hsent, Device.moves_fifosBounded ms, henabled, hfault, fun hoff => Device.moves_disabled c hoff ms⟩

/-- Settles O10: the field lemmas of the peripheral's moves. -/
theorem peripheralMovesTouchOnlyTheDevice : Obligations.PeripheralMovesTouchOnlyTheDevice := fun s =>
  ⟨s.peripheralMoves_seq, s.peripheralMoves_regs, s.peripheralMoves_mem, s.peripheralMoves_caller,
    s.peripheralMoves_busTrace, s.peripheralMoves_results, s.peripheralMoves_cfg, s.peripheralMoves_environment,
    s.peripheralMoves_answers, peripheralMoves_unconstrained⟩

end Sys2Proof.Machine
end

section
/-! SUPPORT. The statements about refusals, endless waits and totality (60_exceptions.md): which operations each of the
checks of R247 refuses, in terms of the fields of a command word, what a poll loop without a limit does (R253), and
that every legal sequencing state has a next step. -/

namespace Sys2Proof.Machine

/-! ## The three checks, on the fields of an operation -/

theorem Instr.exists_fields (i : Instr) : ∃ op reg a b, i = Instr.ofFields op reg a b :=
  ⟨_, _, _, _, (ofFields_encode i).symm⟩

/-- The operations with a byte range (60_exceptions.md R244). -/
def rangedOps : List Op := [.parseIpv4, .recvFrame, .sendFrame]

section
variable (op : Op) (reg : BitVec 8) (a b : Word)

theorem namesRegister_ofFields :
    (Instr.ofFields op reg a b).namesRegister = true ↔ (op ∈ registerOps → reg.toNat ≤ 13) := by
  cases op <;> simp [Instr.ofFields, Instr.namesRegister, registerOps]

theorem mayWrite_ofFields :
    (Instr.ofFields op reg a b).mayWrite = true ↔ (op ∈ writingOps → reg.toNat ∉ readOnlyIds) := by
  cases op <;> simp [Instr.ofFields, Instr.mayWrite, writingOps]

theorem rangeFits_ofFields (addrWidth : Nat) :
    (Instr.ofFields op reg a b).rangeFits addrWidth = true ↔
      (op ∈ rangedOps → a.toNat + b.toNat ≤ 2 ^ addrWidth) := by
  cases op <;> simp [Instr.ofFields, Instr.rangeFits, rangedOps]

theorem wf_ofFields (addrWidth : Nat) :
    (Instr.ofFields op reg a b).wf addrWidth = true ↔
      (op ∈ registerOps → reg.toNat ≤ 13) ∧ (op ∈ writingOps → reg.toNat ∉ readOnlyIds) ∧
        (op ∈ rangedOps → a.toNat + b.toNat ≤ 2 ^ addrWidth) := by
  simp only [Instr.wf, Bool.and_eq_true, namesRegister_ofFields, mayWrite_ofFields, rangeFits_ofFields, and_assoc]

end

/-! ## Register ids -/

theorem regOfId_idOfReg (r : Reg) : regOfId (idOfReg r) = some r := by
  cases r <;> rfl

/-- The registers have the ids 0 to 13, in the order of the layout (30_encoding.md R93). -/
theorem exists_idOfReg {id : BitVec 8} (h : id.toNat ≤ 13) : ∃ r, id = idOfReg r := by
  have hids : ∀ n : Fin 14, (idOfReg layoutOrder[n]).toNat = n := by decide
  exact ⟨_, BitVec.eq_of_toNat_eq (hids ⟨id.toNat, Nat.lt_succ_of_le h⟩).symm⟩

theorem writable_iff_not_readOnlyId (r : Reg) : writable r = true ↔ (idOfReg r).toNat ∉ readOnlyIds := by
  cases r <;> decide

theorem exists_regOfId {id : BitVec 8} (h : id.toNat ≤ 13) :
    ∃ r, regOfId id = some r ∧ (writable r = true ↔ id.toNat ∉ readOnlyIds) := by
  obtain ⟨r, rfl⟩ := exists_idOfReg h
  exact ⟨r, regOfId_idOfReg r, writable_iff_not_readOnlyId r⟩

/-- An id that names no register is a reserved gap or unknown (40_register_access.md R125). -/
theorem readTarget_unnamed {id : BitVec 8} (h : 13 < id.toNat) :
    ∃ e, readTarget id = .error e ∧ (e = .reservedAccess ∨ e = .illegalCommand) := by
  obtain hlow | hhigh := Nat.lt_or_ge id.toNat 16
  · exact ⟨_, readTarget_reserved (by bv_omega), .inl rfl⟩
  · exact ⟨_, readTarget_unknown hhigh, .inr rfl⟩

/-! ## Byte ranges -/

/-- A range that passes the top of host memory is refused before anything is latched. -/
theorem exec_ranged_refused {s : State} {op : Op} {a b : Word} (reg : BitVec 8) (hidle : s.idle)
    (hop : op ∈ rangedOps) (hpast : 2 ^ s.cfg.addrWidth < a.toNat + b.toNat) :
    ∃ t, exec (Instr.ofFields op reg a b) s = .next t ∧ refusedWith .badRange s t := by
  have hrange : badRange s.cfg a b = true := decide_eq_true hpast
  refine ⟨s.raise .badRange, ?_, refused_raise s .badRange⟩
  obtain rfl | htr := List.mem_cons.1 hop
  · rw [Instr.ofFields, exec, execParseIpv4, State.whenIdle_idle hidle, if_pos hrange]
  · rw [exec_transfer_idle hidle htr, State.acceptTransfer, if_pos hrange]

/-! ## What is not refused -/

/-- The step returned nothing, or `Ok`. -/
def State.NotRefused (s t : State) : Prop :=
  t.results = s.results ∨ ∃ v, t.results = s.results ++ [resultWord .ok v]

theorem notRefused_of_endedWith {s t : State} {v : Word} (h : endedWith .ok v s t) : s.NotRefused t := by
  obtain ⟨-, -, hres⟩ := h
  exact .inr ⟨v, hres⟩

/-- A register operation that passes the two checks on its register reads, writes, or does the first of both. -/
theorem exec_register_accepted {s : State} {op : Op} {reg : BitVec 8} (a b : Word) (hidle : s.idle)
    (hop : op ∈ registerOps) (hreg : reg.toNat ≤ 13) (hwrite : op ∈ writingOps → reg.toNat ∉ readOnlyIds) :
    ∃ t, exec (Instr.ofFields op reg a b) s = .next t ∧ s.NotRefused t := by
  obtain ⟨r, hr, hw⟩ := exists_regOfId hreg
  obtain rfl | rfl | hwriting := mem_registerOps.mp hop
  · obtain ⟨⟨t, ht, hend, -⟩, -⟩ := readOperationsComplete s reg r a hidle hr
    exact ⟨t, ht, notRefused_of_endedWith hend⟩
  · obtain ⟨-, ⟨t, ht, hend, -⟩⟩ := readOperationsComplete s reg r a hidle hr
    exact ⟨t, ht, notRefused_of_endedWith hend⟩
  obtain rfl | hmod := mem_writingOps.mp hwriting
  · obtain ⟨t, ht, hend, -⟩ := regWriteCompletes s reg r a hidle hr (hw.2 (hwrite hwriting))
    exact ⟨t, ht, notRefused_of_endedWith hend⟩
  · obtain ⟨t, ht, -, -, -, -, -, hres, -⟩ :=
      readModifyWriteReadsFirst s op reg r a b hidle hmod hr (hw.2 (hwrite hwriting))
    exact ⟨t, ht, .inl hres⟩

/-- An operation that passes all three checks is not refused. -/
theorem exec_wf_accepted {s : State} {i : Instr} (hidle : s.idle) (hwf : i.wf s.cfg.addrWidth = true) :
    ∃ t, exec i s = .next t ∧ s.NotRefused t := by
  obtain ⟨op, reg, a, b, rfl⟩ := Instr.exists_fields i
  obtain ⟨hreg, hwrite, hrange⟩ := (wf_ofFields op reg a b _).1 hwf
  cases op with
  | regRead | regWrite | setBits | clearBits | readBits | writeBits =>
    exact exec_register_accepted a b hidle (by decide) (hreg (by decide)) hwrite
  | parseIpv4 =>
    obtain ⟨t, ht, hend, -⟩ := parseIpv4Completes s a b hidle (hrange (by decide))
    exact ⟨t, ht, notRefused_of_endedWith hend⟩
  | hton16 =>
    obtain ⟨t, ht, hend, -⟩ := (byteSwapsComplete s hidle).1 (a.setWidth 16)
    exact ⟨t, ht, notRefused_of_endedWith hend⟩
  | hton32 =>
    obtain ⟨t, ht, hend, -⟩ := (byteSwapsComplete s hidle).2 a
    exact ⟨t, ht, notRefused_of_endedWith hend⟩
  | init => exact ⟨_, exec_init_idle hidle, .inl rfl⟩
  | recvFrame | sendFrame =>
    rw [exec_transfer_idle hidle (by decide), State.acceptTransfer_inRange (hrange (by decide))]
    exact ⟨_, rfl, .inl rfl⟩

/-! ## The statements about refusals -/

/-- Settles O22: each failed check is one on the fields of the operation, and the shared operations refuse it. -/
theorem firstFailedCheckIsReported : Obligations.FirstFailedCheckIsReported := by
  intro s i hidle
  refine ⟨fun hnames => ?_, fun hnames hmay => ?_, fun _ _ hfits => ?_, exec_wf_accepted hidle⟩
  all_goals obtain ⟨op, reg, a, b, rfl⟩ := Instr.exists_fields i
  · rw [← Bool.not_eq_true, namesRegister_ofFields, Classical.not_imp, not_le] at hnames
    obtain ⟨hop, hreg⟩ := hnames
    obtain ⟨e, he, hcase⟩ := readTarget_unnamed hreg
    obtain ⟨t, ht, hrefused⟩ := exec_register_refused a b hidle hop he
    exact ⟨t, e, ht, hrefused, hcase⟩
  · rw [← Bool.not_eq_true, mayWrite_ofFields, Classical.not_imp, not_not] at hmay
    obtain ⟨hop, hreadOnly⟩ := hmay
    obtain ⟨r, hr, hw⟩ := exists_regOfId
      ((namesRegister_ofFields op reg a b).1 hnames (mem_registerOps.2 (.inr (.inr hop))))
    refine exec_writing_refused a b hidle hop (writeTarget_readOnly hr ?_)
    rw [← Bool.not_eq_true, hw, not_not]
    exact hreadOnly
  · rw [← Bool.not_eq_true, rangeFits_ofFields, Classical.not_imp, not_le] at hfits
    obtain ⟨hop, hpast⟩ := hfits
    exact exec_ranged_refused reg hidle hop hpast

theorem decode_illegal_of_no_row {w : Command} (h : ∀ r ∈ opMap, r.selects w = false) :
    ∃ why, decode w = .illegal why := by
  cases hdecode : decode w with
  | illegal why => exact ⟨why, rfl⟩
  | op i =>
    obtain ⟨r, hr, hsel, -⟩ := decode_eq_op_iff.1 hdecode
    exact absurd hsel (Bool.eq_false_iff.1 (h r hr))

/-- Settles O11: a word that selects no row does not decode; an id above the gaps is O17's. -/
theorem illegalCommandIsRefused : Obligations.IllegalCommandIsRefused := by
  refine ⟨fun s w rest hidle hcaller hrows => ?_, fun s op reg a b hidle hop => ?_⟩
  · obtain ⟨why, hdecode⟩ := decode_illegal_of_no_row hrows
    refine ⟨_, ?_, refused_raise (s.accepting rest) .illegalCommand⟩
    rw [step_issue hidle hcaller, State.takeCommand, hdecode]
  · exact (reservedAndUnknownRegistersAreRefused s op reg a b hidle hop).2

/-- Settles O23: the range check alone decides, and an empty range below the top passes it. -/
theorem rangesPastTheTopAreRefused : Obligations.RangesPastTheTopAreRefused := by
  refine ⟨fun s op a b hidle hop => exec_ranged_refused 0 hidle hop, fun s op a hidle hop ha => ?_⟩
  have hfits : a.toNat + (0 : Word).toNat ≤ 2 ^ s.cfg.addrWidth := ha.trans (Nat.sub_le _ _)
  obtain rfl | htr := List.mem_cons.1 hop
  · obtain ⟨t, ht, hend, hquiet, hmem, hset, -⟩ := parseIpv4Completes s a 0 hidle hfits
    exact ⟨t, ht, hquiet, hmem, hset, fun _ => hend, fun hne => absurd rfl hne⟩
  · have hne : op ≠ .parseIpv4 := by
      rintro rfl
      exact absurd htr (by decide)
    obtain ⟨t, ht, hcur, hp, -, hbuf, hsize, -, hres, hquiet, hmem, hset⟩ :=
      transfersAreAccepted s op a 0 hidle htr hfits
    exact ⟨t, ht, hquiet, hmem, hset, fun he => absurd he hne, fun _ => ⟨hcur, hp, hbuf, hsize, hres⟩⟩

/-! ## Endless waits -/

section
variable {s : State} {r : Reg} {v : Word} {vs : List Word} {tail : List (Reg × Word)}

/-- A loop that counts each answer of a script and keeps what makes it go on takes one step for each answer. -/
theorem run_polled {stays : State → Prop} {waits : Word → Prop}
    (hkeep : ∀ u v rest, stays u → stays (u.polled r [v] rest))
    (hstep : ∀ u v rest, stays u → waits v → u.answers = (r, v) :: rest → step u = .next (u.polled r [v] rest))
    (hs : stays s) (hvs : ∀ v ∈ vs, waits v) (hscript : s.answers = vs.map (Prod.mk r) ++ tail) :
    run vs.length s = .next (s.polled r vs tail) := by
  induction vs generalizing s with
  | nil =>
    rw [List.map_nil, List.nil_append] at hscript
    simp [State.polled, ← hscript]
  | cons v vs ih =>
    obtain ⟨hv, hvs⟩ := List.forall_mem_cons.1 hvs
    rw [List.length_cons, run_succ _ (hstep s v _ hs hv hscript),
      ← State.polled_cons s r v vs (vs.map (Prod.mk r) ++ tail)]
    exact ih (hkeep s v _ hs) hvs rfl

theorem step_waiting_notReady (hs : s.InPhase .recvFrame .waitingForData) (hv : v.getLsbD 0 = false)
    (hscript : s.answers = (.rxStatus, v) :: tail) : step s = .next (s.polled .rxStatus [v] tail) := by
  rw [← State.busRead_setPolls_scripted hs.environment rfl hscript]
  refine State.RecvTransition.step hs.environment hs.curOp (.notReady hs.phase (hs.unlimited _) ?_)
  rw [State.rxReadyBit_spec hs.literals, State.readValue_scripted hs.environment rfl hscript, hv]

theorem step_drainWait_notDrained (hs : s.InPhase .sendFrame .drainWait) (hv : v ≠ 0)
    (hscript : s.answers = (.txfifoSize, v) :: tail) : step s = .next (s.polled .txfifoSize [v] tail) := by
  rw [← State.busRead_setPolls_scripted hs.environment rfl hscript]
  refine State.SendTransition.step hs.environment hs.curOp (.notDrained hs.phase (hs.unlimited _) ?_)
  rwa [State.readValue_scripted hs.environment rfl hscript]

end

/-- Settles O43: each answer that says wait is one step of the loop, which without a limit ends in no other way. -/
theorem unboundedWaitsNeverGiveUp : Obligations.UnboundedWaitsNeverGiveUp := by
  intro s vs tail hlit henv hlimit
  refine ⟨fun hop hp hvs hscript => ?_, fun hop hp hne hvs hscript => ?_, fun hop hp hvs hscript => ?_⟩
  · have hrun := run_polled (fun _ v rest hu => hu.polled .rxStatus [v] rest)
      (fun _ _ _ => step_waiting_notReady) ⟨hop, hp, henv, hlimit, hlit⟩ hvs hscript
    exact ⟨_, hrun, hop, hp, rfl, rfl, fun _ => rfl⟩
  · have hrun := run_polled (stays := fun u => u.InPhase .recvFrame .draining ∧ u.seq.offset ≠ u.seq.sizeL)
      (fun _ v rest hu => ⟨hu.1.polled .rxfifoData [v] rest, hu.2⟩)
      (fun _ _ _ hu => step_draining_empty hu.1 hu.2) ⟨⟨hop, hp, henv, hlimit, hlit⟩, hne⟩ hvs hscript
    exact ⟨_, hrun, hop, hp, rfl, rfl, rfl, fun _ => rfl⟩
  · have hrun := run_polled (fun _ v rest hu => hu.polled .txfifoSize [v] rest)
      (fun _ _ _ => step_drainWait_notDrained) ⟨hop, hp, henv, hlimit, hlit⟩ hvs hscript
    exact ⟨_, hrun, hop, hp, rfl, rfl, fun _ => rfl⟩

/-! ## Totality -/

/-- On an idle accessor every operation has a next state: it is accepted, or refused by its first failed check. -/
theorem exec_idle_answers {s : State} (i : Instr) (hidle : s.idle) : ∃ t, exec i s = .next t := by
  obtain ⟨hnames, hmay, hfits, hwf⟩ := firstFailedCheckIsReported s i hidle
  cases hn : i.namesRegister with
  | false => exact (hnames hn).imp fun _ ⟨_, ht, _⟩ => ht
  | true =>
    cases hm : i.mayWrite with
    | false => exact (hmay hn hm).imp fun _ => And.left
    | true =>
      cases hf : i.rangeFits s.cfg.addrWidth with
      | false => exact (hfits hn hm hf).imp fun _ => And.left
      | true => exact (hwf (by simp [Instr.wf, hn, hm, hf])).imp fun _ => And.left

/-- The idle accessor is never stuck, whatever the caller does next. -/
theorem idleStep_answers {s : State} (hidle : s.idle) : ∃ t, s.idleStep = .next t := by
  unfold State.idleStep
  split
  · exact ⟨_, rfl⟩
  · exact ⟨_, rfl⟩
  · rename_i rest _
    unfold State.takeCommand
    split
    · exact ⟨_, rfl⟩
    · exact exec_idle_answers (s := { s with caller := rest }) _ hidle

section
variable {s : State}

/-- In every legal phase of `RECV_FRAME` a row of its transition table applies. -/
theorem exists_recvTransition (h : s.seq.recvPhaseLegal) : ∃ t, s.RecvTransition t := by
  obtain ⟨hp, hsub | hsub⟩ | hp | ⟨hp, -⟩ | ⟨hp, -⟩ := h
  · exact ⟨_, .sizeWritten hp hsub⟩
  · exact ⟨_, .started hp hsub⟩
  · by_cases hl : s.cfg.pollLimit = some s.seq.polls
    · exact ⟨_, .waitTimesOut hp hl⟩
    cases hb : rxReadyBit s.cfg.literals (s.readValue .rxStatus) with
    | false => exact ⟨_, .notReady hp hl hb⟩
    | true => exact ⟨_, .ready hp hl hb⟩
  · by_cases he : s.seq.offset = s.seq.sizeL
    · exact ⟨_, .drained hp he⟩
    cases hb : fifoEmptyBit s.cfg.literals (s.readValue .rxfifoData) with
    | false => exact ⟨_, .delivered hp he hb⟩
    | true =>
      by_cases hl : s.cfg.pollLimit = some (s.seq.polls + 1)
      · exact ⟨_, .drainTimesOut hp he hb hl⟩
      · exact ⟨_, .fifoEmpty hp he hb hl⟩
  · exact ⟨_, .returned hp⟩

/-- In every legal phase of `SEND_FRAME` a row of its transition table applies. -/
theorem exists_sendTransition (h : s.seq.sendPhaseLegal) : ∃ t, s.SendTransition t := by
  obtain ⟨hp, hsub | hsub⟩ | ⟨hp, -⟩ | ⟨hp | hp, -⟩ := h
  · exact ⟨_, .sizeWritten hp hsub⟩
  · exact ⟨_, .started hp hsub⟩
  · by_cases he : s.seq.offset = s.seq.sizeL
    · exact ⟨_, .allFilled hp he⟩
    · exact ⟨_, .filled hp he⟩
  · by_cases hl : s.cfg.pollLimit = some s.seq.polls
    · exact ⟨_, .waitTimesOut hp hl⟩
    by_cases hb : s.readValue .txfifoSize = 0
    · exact ⟨_, .drained hp hl hb⟩
    · exact ⟨_, .notDrained hp hl hb⟩
  · exact ⟨_, .returned hp⟩

theorem initStep_answers : ∃ t, s.initStep = .next t := by
  unfold State.initStep
  split <;> exact ⟨_, rfl⟩

theorem exists_writeTarget {id : BitVec 8} (h : namesWritable id = true) : ∃ r, writeTarget id = .ok r := by
  unfold namesWritable at h
  split at h
  · exact ⟨_, ‹_›⟩
  · cases h

/-- A read-modify-write in progress has done its read, so its write can follow. -/
theorem exec_readModifyWrite_answers {op : Op} {reg : BitVec 8} (a b : Word)
    (hmod : op ∈ [Op.setBits, .clearBits, .writeBits]) (hop : s.seq.curOp = some op) (hd : s.seq.readDone = true)
    (hw : namesWritable reg = true) : ∃ t, exec (Instr.ofFields op reg a b) s = .next t := by
  obtain ⟨r, hr⟩ := exists_writeTarget hw
  obtain ⟨b', f, hexec, -⟩ := exec_readModifyWrite hmod s reg a b
  exact ⟨_, hexec.trans (State.readModifyWrite_second hop hd hr)⟩

/-- In every legal sequencing state the operation in progress has a next step. -/
theorem exec_running_answers {op : Op} (hlegal : s.seq.legal s.cfg = true) (hop : s.seq.curOp = some op) :
    ∃ t, exec (s.currentInstr op) s = .next t := by
  cases op with
  | setBits | clearBits | writeBits =>
    simp only [Latches.legal, hop, Bool.and_eq_true] at hlegal
    obtain ⟨⟨-, hd⟩, hw⟩ := hlegal
    exact exec_readModifyWrite_answers _ _ (by decide) hop hd hw
  | init =>
    obtain ⟨t, ht⟩ := initStep_answers (s := s)
    exact ⟨t, (exec_init_running hop).trans ht⟩
  | recvFrame =>
    obtain ⟨t, ht⟩ := exists_recvTransition ((Latches.legal_iff_of_recv hop).1 hlegal).2
    exact ⟨t, (exec_recv_next_iff hop).2 ht⟩
  | sendFrame =>
    obtain ⟨t, ht⟩ := exists_sendTransition ((Latches.legal_iff_of_send hop).1 hlegal).2
    exact ⟨t, (exec_send_next_iff hop).2 ht⟩
  | regRead | regWrite | readBits | parseIpv4 | hton16 | hton32 =>
    simp [Latches.legal, hop] at hlegal

end

/-- Settles O53: the peripheral's moves keep the invariant, and the accessor has a next step, idle or busy. -/
theorem machineNeverStops : Obligations.MachineNeverStops := by
  intro s hs
  have hlegal := hs.peripheralMoves.sequencing
  unfold step State.accessorStep
  split
  · exact exec_running_answers hlegal ‹_›
  · exact idleStep_answers ‹_›

end Sys2Proof.Machine
end

section
/-! SUPPORT. The statements about what may go wrong and what the caller may do between operations
(70_reset_and_hazards.md): a receive that waits on a device nobody enabled (R272), and the idle accessor (R275). -/

namespace Sys2Proof.Machine

/-! ## A receive against a disabled device -/

/-- A property from which every step goes on, and which every step keeps, holds after any number of steps. -/
theorem run_of_step {p : State → Prop} (hstep : ∀ s, p s → ∃ t, step s = .next t ∧ p t) (k : Nat) {s : State}
    (hs : p s) : ∃ t, run k s = .next t ∧ p t := by
  induction k generalizing s with
  | zero => exact ⟨s, run_zero s, hs⟩
  | succ k ih =>
    obtain ⟨t, ht, hp⟩ := hstep s hs
    rw [run_succ k ht]
    exact ih hp

/-- A device that is not ready answers a read of `RX_STATUS` with no bit set, whatever the ready bit is (R227). -/
theorem Device.rxReadyBit_of_not_ready {d : Device} (l : Literals) (h : d.rxReady = false) :
    rxReadyBit l (d.readValue l .rxStatus) = false := by
  simp [rxReadyBit, Device.readValue, h]

/-- A device that is not enabled does nothing before the accessor's step, whichever steps are tried (R230). -/
theorem State.peripheralMoves_dev_of_disabled {s : State} (h : s.dev.enabled = false) : s.peripheralMoves.dev = s.dev := by
  unfold State.peripheralMoves
  split
  · rfl
  · split <;> exact Device.moves_disabled s.cfg h _

/-- `RECV_FRAME` waits for data, with no poll limit, from a reference device that is neither enabled nor ready (R272). -/
structure State.AwaitsDisabledDevice (s : State) : Prop where
  environment : s.environment = .reference
  disabled : s.dev.enabled = false
  notReady : s.dev.rxReady = false
  unlimited : s.cfg.pollLimit = none
  curOp : s.seq.curOp = some .recvFrame
  phase : s.seq.phase = .waitingForData

section
variable {s : State} (hs : s.AwaitsDisabledDevice)
include hs

theorem State.AwaitsDisabledDevice.peripheralMoves : s.peripheralMoves.AwaitsDisabledDevice := by
  obtain ⟨henv, hoff, hready, hlimit, hop, hp⟩ := hs
  have hdev := State.peripheralMoves_dev_of_disabled hoff
  constructor <;> simpa [hdev]

/-- The poll of `RX_STATUS` leaves the device as it is. -/
theorem State.AwaitsDisabledDevice.polled (n : Nat) : ((s.busRead .rxStatus).setPolls n).AwaitsDisabledDevice := by
  have hdev : (s.busRead .rxStatus).dev = s.dev :=
    (State.busRead_dev_reference hs.environment .rxStatus).trans (Device.afterRead_of_ne _ (by decide))
  obtain ⟨henv, hoff, hready, hlimit, hop, hp⟩ := hs
  constructor <;> simpa [-State.busRead_dev, hdev]

/-- Of the rows of R197 only the one that goes on waiting applies. -/
theorem State.AwaitsDisabledDevice.step :
    ∃ t, step s = .next t ∧ t.AwaitsDisabledDevice ∧ t.results = s.results := by
  have hm := hs.peripheralMoves
  have hbit : rxReadyBit s.peripheralMoves.cfg.literals (s.peripheralMoves.readValue .rxStatus) = false := by
    rw [State.readValue_reference hm.environment rfl]
    exact Device.rxReadyBit_of_not_ready _ hm.notReady
  exact ⟨_, (step_recv_next_iff hs.curOp).2 (.notReady hm.phase (by simp [hs.unlimited]) hbit), hm.polled _, by simp⟩

end

/-- Settles O60: every step keeps waiting for the disabled device, and none returns anything. -/
theorem receiveBeforeInitHangs : Obligations.ReceiveBeforeInitHangs := by
  intro s k henv hoff hready hlimit hop hp
  have hs : s.AwaitsDisabledDevice := ⟨henv, hoff, hready, hlimit, hop, hp⟩
  obtain ⟨t, ht, hw, hres⟩ := run_of_step (p := fun t => t.AwaitsDisabledDevice ∧ t.results = s.results)
    (fun u hu => hu.1.step.imp fun _ ⟨hstep, hw, hres⟩ => ⟨hstep, hw, hres.trans hu.2⟩) k ⟨hs, rfl⟩
  exact ⟨t, ht, hw.curOp, hw.phase, hw.disabled, hres⟩

/-! ## The caller of an idle accessor -/

section
variable {s : State} (hidle : s.idle)
include hidle

theorem step_noAction (hcaller : s.caller = []) : step s = .next s.peripheralMoves := by
  rw [step_idle hidle, State.idleStep, State.peripheralMoves_caller, hcaller]

theorem step_store {a : Nat} {v : Byte} {rest : List CallerAction} (hcaller : s.caller = .store a v :: rest) :
    step s = .next ((s.accepting rest).callerStore a v) := by
  rw [step_idle hidle, State.idleStep, State.peripheralMoves_caller, hcaller]
  rfl

end

/-- A store at an address of host memory changes that byte and no other. -/
theorem State.read_callerStore {s : State} {a : Nat} (v : Byte) (x : Nat) (ha : a < 2 ^ s.cfg.addrWidth)
    (hwf : Memory.wf s.mem = true) :
    Memory.read (s.callerStore a v).mem x = if x = a then v else Memory.read s.mem x := by
  rw [State.callerStore_mem, Nat.mod_eq_of_lt ha, Memory.read_write _ _ _ _ hwf]

/-- Settles O9: without an action the step is the peripheral's moves alone, with a store it is the moves and one byte. -/
theorem idleAccessorWaitsForCaller : Obligations.IdleAccessorWaitsForCaller := by
  refine ⟨fun s => step_noAction, fun s a v rest hidle hcaller ha hwf => ?_⟩
  refine ⟨_, step_store hidle hcaller, ?_, rfl, s.accepting_busTrace rest, s.accepting_results rest,
    s.accepting_regs rest, fun x => ?_⟩
  · simpa [State.idle] using hidle
  · rw [State.read_callerStore v x (by simpa [State.accepting] using ha) (by simpa using hwf), State.accepting_mem]

end Sys2Proof.Machine
end

section
/-! SUPPORT. The statement about the words written out in the spec (95_test_vectors.md): a legal one is the word of its
operation (30_encoding.md R91, R92), and an illegal one has either no row for its `op` byte or a bit set that the byte's row
asks to be zero (R95). -/

namespace Sys2Proof

theorem decode_of_eq_encode {w : Command} {i : Instr} (h : w = encode i) : decode w = .op i :=
  h ▸ decodeOfEncode i

theorem decode_unknownOp {w : Command} (hcode : ∀ r ∈ opMap, r.code ≠ w.opField) :
    decode w = .illegal .unknownOp := by
  have hrow : rowOfCode w.opField = none := List.find?_eq_none.2 (by simpa using hcode)
  simp only [decode, hrow]

theorem decode_mustBeZero {w : Command} (hrefused : ∃ r ∈ opMap, r.code = w.opField ∧ r.selects w = false) :
    decode w = .illegal .mustBeZero := by
  obtain ⟨r, hr, hop, hsel⟩ := hrefused
  have hrow : rowOfCode w.opField = some r := rowOfCode_eq_some_iff.2 ⟨hr, hop⟩
  have hbits : ¬(w.regField &&& r.regMask = 0 ∧ w.aField &&& r.aMask = 0 ∧ w.bField &&& r.bMask = 0) :=
    fun hzero => Bool.eq_false_iff.1 hsel ((r.selects_iff w).2 ⟨hop.symm, hzero⟩)
  simp only [decode, hrow, if_neg hbits]

/-- Settles O4: fourteen of the words are the words of their operations; the `op` byte of one is not listed, and three have
a bit set that their row asks to be zero. -/
theorem wordsOfTheVectorsDecode : Obligations.WordsOfTheVectorsDecode := by
  unfold Obligations.WordsOfTheVectorsDecode
  iterate 14
    refine ⟨decode_of_eq_encode (by decide), ?_⟩
  exact ⟨decode_unknownOp (by decide), decode_mustBeZero (by decide), decode_mustBeZero (by decide),
    decode_mustBeZero (by decide)⟩

end Sys2Proof
end
